-- ==== Sys2Proof/Word.lean ====
section
/-! DEFINITION. The words of the block: limbs, bytes of the window, and the two-limb value Int128 (00_scope.md R3, R7, R8). -/

namespace Sys2Proof

/-- One limb, and one register slot: 64 bits (00_scope.md R7, 10_state.md R20). -/
abbrev Word := BitVec 64

/-- One byte of the register window (20_memory.md R43). -/
abbrev Byte := BitVec 8

/-- The block's one data type: a 128-bit two's-complement value (00_scope.md R3). -/
abbrev Int128 := BitVec 128

end Sys2Proof
end

