-- ==== Sys2Proof/Config.lean ====
section
/-! DEFINITION. The parameters of 00_scope.md R7: the fixed ones as numbers, the OPEN ones as constants with no body;
and the model's one free value. -/

namespace Sys2Proof.Config

/-- The identifier string (00_scope.md R2). -/
def identifier : String := "I128CORE-v7"

/-- Bytes in the register window (00_scope.md R7, 20_memory.md R40). -/
abbrev windowBytes : Nat := 128

/-- Iterations of the fast path's bit loop: exactly this many (42_divider.md R126). -/
abbrev bitLoopLength : Nat := 64

/-- Hard cap on the refinement of the trial quotient (42_divider.md R131). -/
abbrev maxRefinements : Nat := 2

/-- OPEN (20_memory.md R41, log entry 6): which multiple of 128 the platform puts the window at. -/
opaque coreBaseIndex : Nat

/-- `CORE_BASE`: the window's base address, a multiple of 128 chosen by the platform (20_memory.md R41). -/
def coreBase : Nat := windowBytes * coreBaseIndex

/-- OPEN (70_reset_and_hazards.md R176, log entry 7): `CMD_LATENCY(op, A, B)`, finite; no rule depends on it. -/
opaque cmdLatency : BitVec 8 → Int128 → Int128 → Nat

/-- OPEN (20_memory.md R47, log entry 8): `ACCESS_ERROR_RESPONSE`, the platform's bus error response as a code. -/
opaque accessErrorResponse : Nat

/-- What a `host:` line does to the host's variables (30_encoding.md R69, log entry 17): the spec gives host steps no language, so
this is a free value, of the line's text and the variables before it, newest binding first. -/
opaque hostStep : String → List (String × Word) → List (String × Word)

end Sys2Proof.Config
end

