-- ==== Sys2Proof/Syntax.lean ====
section
/-! DEFINITION. The block's two formats (30_encoding.md R60): the command and the host transaction; and the slots they name. -/

namespace Sys2Proof

/-- The fifteen commands, in the order of the opcode map (30_encoding.md R64).
A command has no operand field: every operand is implied by OP (R66). -/
inductive Instr where
  | add | sub | neg | abs | inc | dec | sgn | isz | isn | isp | cmp | cmpu
  | mulu64 | mul
  | divrem
  deriving DecidableEq, Repr

/-- The eight data slots, each one limb of A, B, Q or R (10_state.md R20). -/
inductive DataSlot where
  | aHi | aLo | bHi | bLo | qHi | qLo | rHi | rLo
  deriving DecidableEq, Repr

/-- What a slot index names (10_state.md R20): a data slot, CMD, STATUS, or one of the reserved slots 10 to 15. -/
inductive Slot where
  | data (d : DataSlot)
  | cmd
  | status
  | reserved
  deriving DecidableEq, Repr

/-- What the host does to the block in one step (00_scope.md R15, 20_memory.md R58): one access to the window, at byte
offset `off` and `width` bytes wide (30_encoding.md R61), or reset, asserted between accesses (70_reset_and_hazards.md R170).
`value` is the slot value of an 8-byte write; an access of another width never uses it (20_memory.md R47). -/
inductive HostAction where
  | read (off : BitVec 7) (width : Nat)
  | write (off : BitVec 7) (width : Nat) (value : Word)
  | reset
  deriving DecidableEq, Repr

end Sys2Proof
end

