-- ==== Sys2Proof/Decode.lean ====
section
/-! DEFINITION. Decoding of command words and of window offsets, the byte order of the window, and the encoder
(30_encoding.md R61 to R65, 20_memory.md R42, R43). -/

namespace Sys2Proof

/-- Why a command word, or a row of bytes, is no legal command. The block reports every one of them as ILL
(60_exceptions.md R152); the names are the model's (log entry 15). -/
inductive DecodeError where
  /-- `w[63:8] != 0` (30_encoding.md R65). -/
  | reservedBits
  /-- OP is none of the fifteen values (30_encoding.md R65). -/
  | unassignedOp (op : BitVec 8)
  /-- The bytes are not the eight of one command word (30_encoding.md R60). -/
  | notOneWord
  deriving DecidableEq, Repr

/-- `OP`, bits 7:0 of a command word (30_encoding.md R62). -/
def opField (w : Word) : BitVec 8 := w.extractLsb' 0 8

/-- `RSV`, bits 63:8 of a command word (30_encoding.md R62). -/
def rsvField (w : Word) : BitVec 56 := w.extractLsb' 8 56

/-- The opcode map, row by row (30_encoding.md R64). -/
def opcodeMap : List (BitVec 8 × Instr) :=
  [(0x01, .add), (0x02, .sub), (0x03, .neg), (0x04, .abs), (0x05, .inc), (0x06, .dec),
   (0x07, .sgn), (0x08, .isz), (0x09, .isn), (0x0A, .isp), (0x0B, .cmp), (0x0C, .cmpu),
   (0x10, .mulu64), (0x11, .mul),
   (0x20, .divrem)]

/-- The decoder: a word is legal if and only if RSV is 0 and OP is in the opcode map (30_encoding.md R63, R68). -/
def decode (w : Word) : Except DecodeError Instr :=
  if rsvField w ≠ 0 then .error .reservedBits
  else match opcodeMap.lookup (opField w) with
    | some i => .ok i
    | none => .error (.unassignedOp (opField w))

/-- `OP` of a command (30_encoding.md R64, the first column). -/
def opOf : Instr → BitVec 8
  | .add => 0x01
  | .sub => 0x02
  | .neg => 0x03
  | .abs => 0x04
  | .inc => 0x05
  | .dec => 0x06
  | .sgn => 0x07
  | .isz => 0x08
  | .isn => 0x09
  | .isp => 0x0A
  | .cmp => 0x0B
  | .cmpu => 0x0C
  | .mulu64 => 0x10
  | .mul => 0x11
  | .divrem => 0x20

/-- The encoder: the legal command word of a command is `zext64(OP)` (30_encoding.md R64). -/
def encode (i : Instr) : Word := (opOf i).zeroExtend 64

/-- Byte `j` of a slot's value, at offset `8*i + j`: bits `63-8j : 56-8j`, for `j` in 0 to 7 (20_memory.md R43). -/
def slotByte (v : Word) (j : Nat) : Byte := v.extractLsb' (56 - 8 * j) 8

/-- The eight bytes of a slot's value in ascending address order, most significant first (20_memory.md R43). -/
def bytesOfWord (v : Word) : List Byte := (List.range 8).map (slotByte v)

/-- The slot value that eight bytes in ascending address order stand for (20_memory.md R43). -/
def wordOfBytes : List Byte → Option Word
  | [b0, b1, b2, b3, b4, b5, b6, b7] => some (b0 ++ b1 ++ b2 ++ b3 ++ b4 ++ b5 ++ b6 ++ b7)
  | _ => none

/-- The decoder on any bytes: exactly one 8-byte word is a command word (30_encoding.md R60). -/
def decodeBytes (bs : List Byte) : Except DecodeError Instr :=
  match wordOfBytes bs with
  | some w => decode w
  | none => .error .notOneWord

/-- The host's view of the decoder: a table word of `nbits` bits, as the eight bytes the window holds, decoded. -/
def decodeTableWord (nbits w : Nat) : Option Instr :=
  if nbits ≤ 64 then (decodeBytes (bytesOfWord (BitVec.ofNat 64 (w % 2 ^ nbits)))).toOption else none

/-- What slot index `off[6:3]` names (10_state.md R20, 20_memory.md R42, 30_encoding.md R61). -/
def slotAt (off : BitVec 7) : Slot :=
  match (off.extractLsb' 3 4).toNat with
  | 0 => .data .aHi
  | 1 => .data .aLo
  | 2 => .data .bHi
  | 3 => .data .bLo
  | 4 => .data .qHi
  | 5 => .data .qLo
  | 6 => .data .rHi
  | 7 => .data .rLo
  | 8 => .cmd
  | 9 => .status
  | _ => .reserved

/-- The slot an access of `width` bytes at `off` addresses, if its width and alignment are admitted (20_memory.md R45). -/
def accessSlot (off : BitVec 7) (width : Nat) : Option Slot :=
  if width = 8 ∧ off.extractLsb' 0 3 = 0 then some (slotAt off) else none

/-- The offset of a data slot: `8*i` (20_memory.md R42). -/
def DataSlot.offset : DataSlot → BitVec 7
  | .aHi => 0x00
  | .aLo => 0x08
  | .bHi => 0x10
  | .bLo => 0x18
  | .qHi => 0x20
  | .qLo => 0x28
  | .rHi => 0x30
  | .rLo => 0x38

/-- The offset of CMD (20_memory.md R42). -/
def cmdOffset : BitVec 7 := 0x40

/-- The offset of STATUS (20_memory.md R42). -/
def statusOffset : BitVec 7 := 0x48

/-- The host writes slots of A and B only (20_memory.md R46). -/
def DataSlot.isOperand : DataSlot → Bool
  | .aHi | .aLo | .bHi | .bLo => true
  | .qHi | .qLo | .rHi | .rLo => false

end Sys2Proof
end

