-- ==== Sys2Proof/Machine/State.lean ====
section
/-! DEFINITION. The state of the block as plain data, its reset, and the reasons a step can stop
(10_state.md R20 to R35, 70_reset_and_hazards.md R170). -/

namespace Sys2Proof.Machine

/-- Why a step stops. -/
inductive Fault where
  /-- A window access of another width than 8 bytes, misaligned, to a reserved slot, or in a forbidden direction. Raised by
  `transact`; no state changes (20_memory.md R47, 00_scope.md R15). Safe: the host only gets a bus error (log entry 5). -/
  | accessError
  /-- The spec's model-only `model_fault(UNWRITTEN)` (10_state.md R36). Raised by `strictStep` alone, never by `step`, which
  goes on with the slot's value as the hardware does (log entry 2). Safe. -/
  | unwritten
  deriving DecidableEq, Repr

/-- Why a step has no meaning. -/
inductive Refusal where
  /-- A command that has no meaning yet, named by its mnemonic. Raised by an arm of `exec` only; every command of this model
  has its meaning, so no arm raises it. Safe. -/
  | notModelled (mnemonic : String)
  deriving DecidableEq, Repr

/-- The exceptions that STATUS records (60_exceptions.md R150). They are outcomes of a command, not faults (00_scope.md R15). -/
inductive Exception where
  /-- DIVREM with `B == 0` (60_exceptions.md R151). -/
  | dz
  /-- An illegal command word (60_exceptions.md R152). -/
  | ill
  deriving DecidableEq, Repr

/-- The written marks, one per data slot. Bookkeeping of the spec's model; the hardware has no such bit (10_state.md R35). -/
structure Marks where
  aHi : Bool
  aLo : Bool
  bHi : Bool
  bLo : Bool
  qHi : Bool
  qLo : Bool
  rHi : Bool
  rLo : Bool
  deriving DecidableEq, Repr

/-- The state of the block (10_state.md R20: "the complete list of its state"), the written marks (R35), and the host's side
of the window: what it has still to do, and what its reads returned (00_scope.md R15, 70_reset_and_hazards.md R177). -/
structure State where
  aHi : Word
  aLo : Word
  bHi : Word
  bLo : Word
  qHi : Word
  qLo : Word
  rHi : Word
  rLo : Word
  status : Word
  written : Marks
  /-- The host's actions not yet performed, oldest first (log entry 3). They are the host's: the block has no queue
  (30_encoding.md R67). -/
  pending : List HostAction
  /-- The values returned by reads, oldest first (70_reset_and_hazards.md R177). -/
  returned : List Word
  deriving DecidableEq, Repr

/-- All eight marks clear (10_state.md R35). -/
def Marks.none : Marks := ⟨false, false, false, false, false, false, false, false⟩

/-- The block right after reset (10_state.md R34, 70_reset_and_hazards.md R170): STATUS 0, marks clear. The data slots, which
the spec leaves unspecified, hold 0 (DESIGN CHOICE, unsafe, log entry 1). -/
def State.reset : State where
  aHi := 0
  aLo := 0
  bHi := 0
  bLo := 0
  qHi := 0
  qLo := 0
  rHi := 0
  rLo := 0
  status := 0
  written := Marks.none
  pending := []
  returned := []

end Sys2Proof.Machine
end

