-- ==== Sys2Proof/Machine/Flags.lean ====
section
/-! DEFINITION. The bits a command computes. The block has no architectural flags (10_state.md R30): the carries and borrows
below live inside one command (40_adder.md R81 to R83). The only outcome bits are STATUS.DZ and STATUS.ILL (10_state.md R27). -/

namespace Sys2Proof.Machine

/-- The carry out of the low limb: `(loSum <u a.lo) ? 1 : 0` (40_adder.md R81). -/
def carryOut (loSum aLo : Word) : BitVec 1 := BitVec.ofBool (loSum.ult aLo)

/-- The borrow out of the low limb: `(a.lo <u b.lo) ? 1 : 0` (40_adder.md R82). -/
def borrowOut (aLo bLo : Word) : BitVec 1 := BitVec.ofBool (aLo.ult bLo)

/-- The carry of negation's plus one: `(lo == 0) ? 1 : 0` (40_adder.md R83). -/
def negCarry (negLo : Word) : BitVec 1 := BitVec.ofBool (negLo == 0)

/-- STATUS after a command: 0x0 if it completed, 0x1 for DZ, 0x2 for ILL (60_exceptions.md R158, R150). -/
def statusWord : Option Exception → Word
  | none => 0x0
  | some .dz => 0x1
  | some .ill => 0x2

/-- STATUS.DZ, bit 0 (10_state.md R27). -/
def statusDz (w : Word) : Bool := w.getLsbD 0

/-- STATUS.ILL, bit 1 (10_state.md R27). -/
def statusIll (w : Word) : Bool := w.getLsbD 1

/-- The reserved bits 63:2 of STATUS (10_state.md R27). -/
def statusReserved (w : Word) : BitVec 62 := w.extractLsb' 2 62

end Sys2Proof.Machine
end

