-- ==== Sys2Proof/Machine/Ops.lean ====
section
/-! DEFINITION. The named operations over the slots: read and write one slot, complete a command, take an exception, reset,
and the byte view of the window. There is no return from an exception (60_exceptions.md R157). -/

namespace Sys2Proof.Machine

/-- `x[S]` for a data slot (00_scope.md R11). -/
def getSlot : DataSlot → State → Word
  | .aHi, s => s.aHi
  | .aLo, s => s.aLo
  | .bHi, s => s.bHi
  | .bLo, s => s.bLo
  | .qHi, s => s.qHi
  | .qLo, s => s.qLo
  | .rHi, s => s.rHi
  | .rLo, s => s.rLo

/-- The written mark of a data slot (10_state.md R35). -/
def isWritten : DataSlot → State → Bool
  | .aHi, s => s.written.aHi
  | .aLo, s => s.written.aLo
  | .bHi, s => s.written.bHi
  | .bLo, s => s.written.bLo
  | .qHi, s => s.written.qHi
  | .qLo, s => s.written.qLo
  | .rHi, s => s.written.rHi
  | .rLo, s => s.written.rLo

/-- `x[S] <- v`, with the mark of S set (10_state.md R35, 20_memory.md R49). -/
def setSlot : DataSlot → Word → State → State
  | .aHi, v, s => { s with aHi := v, written := { s.written with aHi := true } }
  | .aLo, v, s => { s with aLo := v, written := { s.written with aLo := true } }
  | .bHi, v, s => { s with bHi := v, written := { s.written with bHi := true } }
  | .bLo, v, s => { s with bLo := v, written := { s.written with bLo := true } }
  | .qHi, v, s => { s with qHi := v, written := { s.written with qHi := true } }
  | .qLo, v, s => { s with qLo := v, written := { s.written with qLo := true } }
  | .rHi, v, s => { s with rHi := v, written := { s.written with rHi := true } }
  | .rLo, v, s => { s with rLo := v, written := { s.written with rLo := true } }

/-- `x[STATUS] <- v` (60_exceptions.md R158). -/
def setStatus (v : Word) (s : State) : State := { s with status := v }

/-- `Q <- v`: the high limb to Q_HI and the low limb to Q_LO (00_scope.md R11, 10_state.md R23). -/
def setQ (v : Int128) (s : State) : State := setSlot .qLo (v.extractLsb' 0 64) (setSlot .qHi (v.extractLsb' 64 64) s)

/-- `R <- v` (00_scope.md R11, 10_state.md R24). -/
def setR (v : Int128) (s : State) : State := setSlot .rLo (v.extractLsb' 0 64) (setSlot .rHi (v.extractLsb' 64 64) s)

/-- A command of one result completes: Q is written and STATUS becomes 0 (40_adder.md R80, 41_multiplier.md R111). -/
def completeQ (q : Int128) (s : State) : State := setStatus (statusWord none) (setQ q s)

/-- DIVREM completes: Q and R are written and STATUS becomes 0 (42_divider.md R138). -/
def completeQR (q r : Int128) (s : State) : State := setStatus (statusWord none) (setR r (setQ q s))

/-- Taking an exception: STATUS records it and nothing else changes; there is no trap, no vector and no saved register
(60_exceptions.md R151, R152, R156). -/
def raise (e : Exception) (s : State) : State := setStatus (statusWord (some e)) s

/-- A read returns `v` to the host; it changes no slot (20_memory.md R48). -/
def returnRead (v : Word) (s : State) : State := { s with returned := s.returned ++ [v] }

/-- Reset, asserted between two accesses (70_reset_and_hazards.md R170): the block is as `State.reset` says; what the host has
still to do, and what it has read, is the host's and stays. -/
def applyReset (s : State) : State := { State.reset with pending := s.pending, returned := s.returned }

/-- The value of a slot, where the slot holds one: CMD and the reserved slots hold no state (10_state.md R26, R28). -/
def slotValue : Slot → State → Option Word
  | .data d, s => some (getSlot d s)
  | .status, s => some s.status
  | .cmd, _ => none
  | .reserved, _ => none

/-- The byte at an offset of the window, big-endian within its slot (20_memory.md R42, R43). A view for statements: the host
cannot read one byte (R45). -/
def windowByte (off : BitVec 7) (s : State) : Option Byte :=
  (slotValue (slotAt off) s).map fun v => slotByte v (off.extractLsb' 0 3).toNat

end Sys2Proof.Machine
end

