-- ==== Sys2Proof/Machine/Operands.lean ====
section
/-! DEFINITION. The operands of the commands: the four 128-bit registers as pairs of limbs, their unsigned and signed values,
and each command's read set and write set (00_scope.md R9, R12, 10_state.md R25, R37, 30_encoding.md R66). -/

namespace Sys2Proof.Machine

/-- `{h, l}`: the value whose bits 127:64 are `h` and whose bits 63:0 are `l` (00_scope.md R8). -/
def join (h l : Word) : Int128 := h ++ l

/-- `v[127:64]`, limb 1 (00_scope.md R13). -/
def hiLimb (v : Int128) : Word := v.extractLsb' 64 64

/-- `v[63:0]`, limb 0 (00_scope.md R13). -/
def loLimb (v : Int128) : Word := v.extractLsb' 0 64

/-- Operand A (10_state.md R21). -/
def opA (s : State) : Int128 := join s.aHi s.aLo

/-- Operand B (10_state.md R22). -/
def opB (s : State) : Int128 := join s.bHi s.bLo

/-- Result Q (10_state.md R23). -/
def resQ (s : State) : Int128 := join s.qHi s.qLo

/-- Result R (10_state.md R24). -/
def resR (s : State) : Int128 := join s.rHi s.rLo

/-- `u({hi, lo}) = u(hi)*2^64 + u(lo)` (10_state.md R25). -/
def unsignedValue (h l : Word) : Nat := h.toNat * 2 ^ 64 + l.toNat

/-- `s({hi, lo}) = s(hi)*2^64 + u(lo)`: the low limb is always combined as unsigned (00_scope.md R9, 10_state.md R25). -/
def signedValue (h l : Word) : Int := h.toInt * 2 ^ 64 + l.toNat

/-- MIN_VALUE (00_scope.md R12). -/
def minValue : Int128 := 0x80000000000000000000000000000000

/-- MAX_VALUE (00_scope.md R12). -/
def maxValue : Int128 := 0x7FFFFFFFFFFFFFFFFFFFFFFFFFFFFFFF

/-- The Int128 value 1, `{0, 1}` (40_adder.md R88). -/
def one128 : Int128 := join 0 1

/-- The slots a command reads (10_state.md R37). -/
def readSet : Instr → List DataSlot
  | .add | .sub | .cmp | .cmpu | .mul => [.aHi, .aLo, .bHi, .bLo]
  | .neg | .abs | .inc | .dec | .sgn | .isz | .isn | .isp => [.aHi, .aLo]
  | .mulu64 => [.aLo, .bLo]
  | .divrem => [.aHi, .aLo, .bHi, .bLo]

/-- The data slots a command writes when it completes; STATUS is written besides (10_state.md R37). -/
def writeSet : Instr → List DataSlot
  | .add | .sub | .cmp | .cmpu | .mul => [.qHi, .qLo]
  | .neg | .abs | .inc | .dec | .sgn | .isz | .isn | .isp => [.qHi, .qLo]
  | .mulu64 => [.qHi, .qLo]
  | .divrem => [.qHi, .qLo, .rHi, .rLo]

end Sys2Proof.Machine
end

