-- ==== Sys2Proof/Machine/Adder.lean ====
section
/-! DEFINITION. The adder/subtractor family (40_adder.md): the three limb algorithms and the twelve commands. -/

namespace Sys2Proof.Machine

/-- The limb adder (40_adder.md R81). -/
def add128 (a b : Int128) : Int128 :=
  let loSum := loLimb a + loLimb b
  let carry := carryOut loSum (loLimb a)
  join (hiLimb a + hiLimb b + carry.zeroExtend 64) loSum

/-- The limb subtractor (40_adder.md R82). -/
def sub128 (a b : Int128) : Int128 :=
  let borrow := borrowOut (loLimb a) (loLimb b)
  join (hiLimb a - hiLimb b - borrow.zeroExtend 64) (loLimb a - loLimb b)

/-- The limb negator (40_adder.md R83). -/
def neg128 (a : Int128) : Int128 :=
  let l := ~~~ loLimb a + 1
  join (~~~ hiLimb a + (negCarry l).zeroExtend 64) l

/-- `A[127]`, the sign bit (00_scope.md R3). -/
def isNeg (a : Int128) : Bool := a.getLsbD 127

/-- `abs`: negate if negative (40_adder.md R87). -/
def abs128 (a : Int128) : Int128 := if isNeg a then neg128 a else a

/-- A predicate's result in Q: 1 for true, 0 for false (40_adder.md R91 to R93). -/
def ofTruth (b : Bool) : Int128 := if b then 1 else 0

/-- A comparison's result in Q: -1, 0 or +1 (40_adder.md R90, R94, R95). -/
def ofOrder (less equal : Bool) : Int128 := if less then -1 else if equal then 0 else 1

/-- ADD (40_adder.md R84). -/
def execAdd (s : State) : Host.Outcome State Fault Refusal :=
  .next (completeQ (add128 (opA s) (opB s)) s)

/-- SUB (40_adder.md R85). -/
def execSub (s : State) : Host.Outcome State Fault Refusal :=
  .next (completeQ (sub128 (opA s) (opB s)) s)

/-- NEG (40_adder.md R86). -/
def execNeg (s : State) : Host.Outcome State Fault Refusal :=
  .next (completeQ (neg128 (opA s)) s)

/-- ABS (40_adder.md R87). -/
def execAbs (s : State) : Host.Outcome State Fault Refusal :=
  .next (completeQ (abs128 (opA s)) s)

/-- INC (40_adder.md R88). -/
def execInc (s : State) : Host.Outcome State Fault Refusal :=
  .next (completeQ (add128 (opA s) one128) s)

/-- DEC (40_adder.md R89). -/
def execDec (s : State) : Host.Outcome State Fault Refusal :=
  .next (completeQ (sub128 (opA s) one128) s)

/-- SGN (40_adder.md R90). -/
def execSgn (s : State) : Host.Outcome State Fault Refusal :=
  .next (completeQ (ofOrder (isNeg (opA s)) (opA s == 0)) s)

/-- ISZ (40_adder.md R91). -/
def execIsz (s : State) : Host.Outcome State Fault Refusal :=
  .next (completeQ (ofTruth (opA s == 0)) s)

/-- ISN (40_adder.md R92). -/
def execIsn (s : State) : Host.Outcome State Fault Refusal :=
  .next (completeQ (ofTruth (isNeg (opA s))) s)

/-- ISP (40_adder.md R93). -/
def execIsp (s : State) : Host.Outcome State Fault Refusal :=
  .next (completeQ (ofTruth (!isNeg (opA s) && opA s != 0)) s)

/-- CMP, signed (40_adder.md R94). -/
def execCmp (s : State) : Host.Outcome State Fault Refusal :=
  .next (completeQ (ofOrder ((opA s).slt (opB s)) (opA s == opB s)) s)

/-- CMPU, unsigned (40_adder.md R95). -/
def execCmpu (s : State) : Host.Outcome State Fault Refusal :=
  .next (completeQ (ofOrder ((opA s).ult (opB s)) (opA s == opB s)) s)

end Sys2Proof.Machine
end

