-- ==== Sys2Proof/Machine/Multiplier.lean ====
section
/-! DEFINITION. The multiplier family (41_multiplier.md): the 64 by 64 primitive from four 32-bit cross products, and the two
commands. -/

namespace Sys2Proof.Machine

/-- Bits 31:0 of a limb, as a limb. -/
def lo32 (x : Word) : Word := (x.extractLsb' 0 32).zeroExtend 64

/-- Bits 63:32 of a limb, as a limb. -/
def hi32 (x : Word) : Word := (x.extractLsb' 32 32).zeroExtend 64

/-- The exact unsigned 64 by 64 product, by the cross products and the `mid` column of 41_multiplier.md R110 (the order of
combination is the spec's from general knowledge, log entry 13; the product is what is normative). -/
def mulU64 (x y : Word) : Int128 :=
  let p00 := lo32 x * lo32 y
  let p01 := lo32 x * hi32 y
  let p10 := hi32 x * lo32 y
  let p11 := hi32 x * hi32 y
  let mid := hi32 p00 + lo32 p10 + lo32 p01
  join (p11 + hi32 p10 + hi32 p01 + hi32 mid) (mid.extractLsb' 0 32 ++ p00.extractLsb' 0 32)

/-- The wrapping 128 by 128 product: the two mixed terms reach the high limb only (41_multiplier.md R113). -/
def mul128 (a b : Int128) : Int128 :=
  let p := mulU64 (loLimb a) (loLimb b)
  join (hiLimb p + loLimb a * hiLimb b + hiLimb a * loLimb b) (loLimb p)

/-- MULU64: the low limbs alone are read (41_multiplier.md R112). -/
def execMulu64 (s : State) : Host.Outcome State Fault Refusal :=
  .next (completeQ (mulU64 s.aLo s.bLo) s)

/-- MUL (41_multiplier.md R113). -/
def execMul (s : State) : Host.Outcome State Fault Refusal :=
  .next (completeQ (mul128 (opA s) (opB s)) s)

end Sys2Proof.Machine
end

