-- ==== Sys2Proof/Machine/Divider.lean ====
section
/-! DEFINITION. The divider family (42_divider.md): the algorithm the spec prescribes, step by step and with its iteration caps,
and DIVREM. That it computes the contract (R120, R136, R139) is stated, not assumed. -/

namespace Sys2Proof.Machine

/-- One iteration of the restoring bit loop, for bit `i`: shift the running remainder left, bring in `xLo[i]`, and subtract
the divisor if it fits. The running remainder is 128 bits wide, so bit 64 is not lost (42_divider.md R126). -/
def bitLoopStep (xLo d : Word) (i : Nat) (r : Int128) (qLo : Word) : Int128 × Word :=
  let r' := (r <<< 1) ||| (BitVec.ofBool (xLo.getLsbD i)).zeroExtend 128
  if (d.zeroExtend 128).ule r' then (r' - d.zeroExtend 128, qLo ||| (1#64 <<< i)) else (r', qLo)

/-- The restoring bit loop over bits `n-1` down to 0: exactly `n` iterations (42_divider.md R126). -/
def bitLoop (xLo d : Word) : Nat → Int128 → Word → Int128 × Word
  | 0, r, qLo => (r, qLo)
  | n + 1, r, qLo =>
    let next := bitLoopStep xLo d n r qLo
    bitLoop xLo d n next.1 next.2

/-- The fast path: the 64-bit primitive on the high limb, then 64 iterations of the bit loop (42_divider.md R125, R126).
Its callers have `d != 0` (log entry 16). -/
def divFast (xHi xLo d : Word) : Int128 × Word :=
  let res := bitLoop xLo d Config.bitLoopLength ((xHi % d).zeroExtend 128) 0
  (join (xHi / d) res.2, loLimb res.1)

/-- How many of the bits `n-1` down to 0 of `x` are zero before the first one bit. -/
def leadingZeros (x : Word) : Nat → Nat
  | 0 => 0
  | n + 1 => if x.getLsbD n then 0 else 1 + leadingZeros x n

/-- `clz64` (00_scope.md R10). -/
def clz64 (x : Word) : Nat := leadingZeros x 64

/-- The normalized operands of the general path (42_divider.md R128). -/
structure DivNorm where
  shift : Nat
  bn : Int128
  d1 : Word
  d0 : Word
  n2 : Word
  n1 : Word
  n0 : Word
  deriving DecidableEq, Repr

/-- The trial quotient and the trial remainder. `rHat` has 65 bits, so that it can record 2^64 or more
(42_divider.md R129, log entry 12). -/
structure DivTrial where
  qHat : Int128
  rHat : BitVec 65
  deriving DecidableEq, Repr

/-- Step 1, normalize (42_divider.md R128). -/
def normalize (ua ub : Int128) : DivNorm :=
  let shift := clz64 (hiLimb ub)
  let bn := ub <<< shift
  let an := ua.zeroExtend 192 <<< shift
  { shift := shift, bn := bn, d1 := hiLimb bn, d0 := loLimb bn
    n2 := an.extractLsb' 128 64, n1 := an.extractLsb' 64 64, n0 := an.extractLsb' 0 64 }

/-- Step 2, the trial quotient (42_divider.md R129). -/
def trialQuotient (n : DivNorm) : DivTrial :=
  let f := divFast n.n2 n.n1 n.d1
  { qHat := f.1, rHat := f.2.zeroExtend 65 }

/-- `qHat <- qHat - 1; rHat <- rHat + d1`, the correction that steps 3 and 4 share (42_divider.md R130, R131). -/
def lowerTrial (n : DivNorm) (t : DivTrial) : DivTrial :=
  { qHat := t.qHat - 1, rHat := t.rHat + n.d1.zeroExtend 65 }

/-- The test of step 3: the conceptual quotient does not fit in 64 bits (42_divider.md R130). -/
def topCorrectionFires (t : DivTrial) : Bool := decide (2 ^ 64 ≤ t.qHat.toNat)

/-- Step 3, the top-limb overflow correction: a single `if` (42_divider.md R130). -/
def topCorrect (n : DivNorm) (t : DivTrial) : DivTrial := if topCorrectionFires t then lowerTrial n t else t

/-- The test of step 4, behind its guard: `rHat` still fits in 64 bits and `qHat * d0` exceeds `(rHat : n0)`
(42_divider.md R131, 90_conflicts.md C1). -/
def refinementFires (n : DivNorm) (t : DivTrial) : Bool :=
  !decide (2 ^ 64 ≤ t.rHat.toNat) &&
    (join (t.rHat.extractLsb' 0 64) n.n0).ult (mulU64 (loLimb t.qHat) n.d0)

/-- Step 4, refine against the low divisor limb: at most `k` iterations (42_divider.md R131). -/
def refine (n : DivNorm) : Nat → DivTrial → DivTrial
  | 0, t => t
  | k + 1, t => if refinementFires n t then refine n k (lowerTrial n t) else t

/-- The dividend's three limbs as one value, `{n2, n1, n0}` (42_divider.md R132). -/
def threeLimbs (n : DivNorm) : BitVec 192 := n.n2 ++ n.n1 ++ n.n0

/-- The three-limb product `qHat * (d1:d0)` of step 5 (42_divider.md R132). -/
def trialProduct (n : DivNorm) (t : DivTrial) : BitVec 192 :=
  (mulU64 (loLimb t.qHat) n.d0).zeroExtend 192 + (mulU64 (loLimb t.qHat) n.d1).zeroExtend 192 <<< 64

/-- The test of step 5: the subtraction borrows out of the top limb (42_divider.md R132). -/
def restoreFires (n : DivNorm) (t : DivTrial) : Bool := (threeLimbs n).ult (trialProduct n t)

/-- Step 5, subtract, with the single final restore: the quotient and the three-limb remainder (42_divider.md R132). -/
def subtractRestore (n : DivNorm) (t : DivTrial) : Int128 × BitVec 192 :=
  let diff := threeLimbs n - trialProduct n t
  if restoreFires n t then (t.qHat - 1, diff + n.bn.zeroExtend 192) else (t.qHat, diff)

/-- Steps 1 to 4 of the general path: the trial quotient after its corrections (42_divider.md R128 to R131). -/
def refinedTrial (n : DivNorm) : DivTrial := refine n Config.maxRefinements (topCorrect n (trialQuotient n))

/-- The general path (42_divider.md R128 to R134); step 6 shifts the remainder back, step 7 keeps one quotient limb. -/
def divGeneral (ua ub : Int128) : Int128 × Int128 :=
  let n := normalize ua ub
  let res := subtractRestore n (refinedTrial n)
  ((loLimb res.1).zeroExtend 128, res.2.extractLsb' 0 128 >>> n.shift)

/-- DIVU, the unsigned divider: quick exit, then the choice of path (42_divider.md R123, R124). -/
def divu (ua ub : Int128) : Int128 × Int128 :=
  if ua.ult ub then (0, ua)
  else if hiLimb ub = 0 then
    let f := divFast (hiLimb ua) (loLimb ua) (loLimb ub)
    (f.1, f.2.zeroExtend 128)
  else divGeneral ua ub

/-- The magnitude of an operand, read as unsigned from here on (42_divider.md R122). -/
def magnitude (v : Int128) : Int128 := if isNeg v then neg128 v else v

/-- The quotient's sign: `negA xor negB` (42_divider.md R137). -/
def restoreQuotient (a b uq : Int128) : Int128 := if xor (isNeg a) (isNeg b) then neg128 uq else uq

/-- The remainder's sign: the dividend's (42_divider.md R137). -/
def restoreRemainder (a ur : Int128) : Int128 := if isNeg a && ur != 0 then neg128 ur else ur

/-- Signed division on a nonzero divisor: sign split, DIVU, sign restoration (42_divider.md R138). -/
def divRem (a b : Int128) : Int128 × Int128 :=
  let u := divu (magnitude a) (magnitude b)
  (restoreQuotient a b u.1, restoreRemainder a u.2)

/-- DIVREM: DZ when B is 0, tested first (42_divider.md R121, R138). -/
def execDivrem (s : State) : Host.Outcome State Fault Refusal :=
  if opB s = 0 then .next (raise .dz s)
  else
    let res := divRem (opA s) (opB s)
    .next (completeQR res.1 res.2 s)

end Sys2Proof.Machine
end

