-- ==== Sys2Proof/Machine/Dispatch.lean ====
section
/-! DEFINITION. One arm per command (30_encoding.md R64): the rule that gives its meaning. -/

namespace Sys2Proof.Machine

def exec (i : Instr) (s : State) : Host.Outcome State Fault Refusal :=
  match i with
  | .add => Sys2Proof.Machine.execAdd s
  | .sub => Sys2Proof.Machine.execSub s
  | .neg => Sys2Proof.Machine.execNeg s
  | .abs => Sys2Proof.Machine.execAbs s
  | .inc => Sys2Proof.Machine.execInc s
  | .dec => Sys2Proof.Machine.execDec s
  | .sgn => Sys2Proof.Machine.execSgn s
  | .isz => Sys2Proof.Machine.execIsz s
  | .isn => Sys2Proof.Machine.execIsn s
  | .isp => Sys2Proof.Machine.execIsp s
  | .cmp => Sys2Proof.Machine.execCmp s
  | .cmpu => Sys2Proof.Machine.execCmpu s
  | .mulu64 => Sys2Proof.Machine.execMulu64 s
  | .mul => Sys2Proof.Machine.execMul s
  | .divrem => Sys2Proof.Machine.execDivrem s

end Sys2Proof.Machine
end

