-- ==== Sys2Proof/Machine/Bus.lean ====
section
/-! DEFINITION. The register window as the host sees it: what one action does, bus addresses and bytes, and what the host gets
back (20_memory.md R41 to R50, R58; 30_encoding.md R68). -/

namespace Sys2Proof.Machine

/-- A write of the word `w` to CMD: decode first, then run the command; an illegal word raises ILL and reads no operand
(30_encoding.md R68, 60_exceptions.md R152). -/
def runCommand (w : Word) (s : State) : Host.Outcome State Fault Refusal :=
  match decode w with
  | .ok i => exec i s
  | .error _ => .next (raise .ill s)

/-- One host action, done whole before the next begins (20_memory.md R45 to R52; 70_reset_and_hazards.md R170). -/
def transact : HostAction → State → Host.Outcome State Fault Refusal
  | .read off width, s =>
    match accessSlot off width with
    | some (.data d) => .next (returnRead (getSlot d s) s)
    | some .status => .next (returnRead s.status s)
    | some .cmd => .fault .accessError
    | some .reserved => .fault .accessError
    | none => .fault .accessError
  | .write off width value, s =>
    match accessSlot off width with
    | some (.data d) => if d.isOperand then .next (setSlot d value s) else .fault .accessError
    | some .cmd => runCommand value s
    | some .status => .fault .accessError
    | some .reserved => .fault .accessError
    | none => .fault .accessError
  | .reset, s => .next (applyReset s)

/-- `MemRead(addr, n)` or `MemWrite(addr, n, bytes)` on the host's bus, at a bus address, the write's bytes in ascending
address order (00_scope.md R11). -/
inductive BusAccess where
  | memRead (addr n : Nat)
  | memWrite (addr : Nat) (bytes : List Byte)
  deriving DecidableEq, Repr

/-- Is the address one of the window's, `CORE_BASE` to `CORE_BASE + 0x7F` (20_memory.md R40)? -/
def inWindow (addr : Nat) : Bool :=
  decide (Config.coreBase ≤ addr) && decide (addr ≤ Config.coreBase + 0x7F)

/-- `off = addr - CORE_BASE`, seven bits (20_memory.md R41). -/
def windowOffset (addr : Nat) : BitVec 7 := BitVec.ofNat 7 (addr - Config.coreBase)

/-- The window action that a bus access is, if its first byte is in the window; another access is not the block's
(20_memory.md R41, log entry 6). -/
def windowAction : BusAccess → Option HostAction
  | .memRead addr n => if inWindow addr then some (.read (windowOffset addr) n) else none
  | .memWrite addr bytes =>
    if inWindow addr then some (.write (windowOffset addr) bytes.length ((wordOfBytes bytes).getD 0)) else none

/-- The host issues a bus access: after the ones already pending, in the order received (20_memory.md R52). -/
def present (b : BusAccess) (s : State) : State :=
  match windowAction b with
  | some a => { s with pending := s.pending ++ [a] }
  | none => s

/-- What the host gets back for one action (20_memory.md R58). -/
inductive BusResponse where
  /-- A read's eight bytes, in ascending address order (20_memory.md R48). -/
  | readData (bytes : List Byte)
  /-- The write completed, its command included (70_reset_and_hazards.md R173). -/
  | done
  /-- The platform's bus error, a code the platform fixes (20_memory.md R47). -/
  | busError (code : Nat)
  deriving DecidableEq, Repr

/-- The slot value that a host action returns, if it is an admitted read (20_memory.md R48). -/
def readValue : HostAction → State → Option Word
  | .read off width, s => (accessSlot off width).bind fun S => slotValue S s
  | .write _ _ _, _ => none
  | .reset, _ => none

/-- The response to one action (20_memory.md R47, R48, R58). -/
def busResponse (a : HostAction) (s : State) : BusResponse :=
  match readValue a s with
  | some v => .readData (bytesOfWord v)
  | none =>
    match transact a s with
    | .next _ => .done
    | .fault _ => .busError Config.accessErrorResponse
    | .refused _ => .busError Config.accessErrorResponse

end Sys2Proof.Machine
end

