-- ==== Sys2Proof/Machine/Step.lean ====
section
/-! DEFINITION. One step: the host's next action (00_scope.md R15). -/

namespace Sys2Proof.Machine

/-- The host's oldest pending action leaves the queue and is performed. With nothing pending the block keeps its state
(log entry 3). -/
def step (s : State) : Host.Outcome State Fault Refusal :=
  match s.pending with
  | [] => .next s
  | a :: rest => transact a { s with pending := rest }

/-- A command comes to run by a write of its word to CMD (30_encoding.md R67), here put before every other pending action:
the block has no program counter and fetches nothing (10_state.md R29, log entry 9). Bits of `w` above `nbits` are 0. -/
def State.withFetchWord (s : State) (nbits w : Nat) : State :=
  { s with pending := .write cmdOffset 8 (BitVec.ofNat 64 (w % 2 ^ nbits)) :: s.pending }

end Sys2Proof.Machine
end

