-- ==== Sys2Proof/Machine/Strict.lean ====
section
/-! DEFINITION. The spec's own reading of unwritten slots (10_state.md R35, R36; 30_encoding.md R68; 60_exceptions.md R154): the
same machine, which stops before it uses a slot that nothing has written. -/

namespace Sys2Proof.Machine

/-- The data slots that a host action makes the block read: the slot of an admitted read, or the read set of a legal command.
An access that is not admitted and an illegal word read nothing, so they keep their priority (60_exceptions.md R154). -/
def slotsRead : HostAction → List DataSlot
  | .read off width =>
    match accessSlot off width with
    | some (.data d) => [d]
    | some .cmd => []
    | some .status => []
    | some .reserved => []
    | none => []
  | .write off width value =>
    match accessSlot off width with
    | some .cmd =>
      match decode value with
      | .ok i => readSet i
      | .error _ => []
    | some (.data _) => []
    | some .status => []
    | some .reserved => []
    | none => []
  | .reset => []

/-- Does the next step read a slot whose mark is clear (10_state.md R36)? -/
def readsUnwritten (s : State) : Bool :=
  match s.pending with
  | [] => false
  | a :: _ => (slotsRead a).any fun d => !isWritten d s

/-- The step of the spec's model: `model_fault(UNWRITTEN)` where the next action reads an unwritten slot (10_state.md R36). -/
def strictStep (s : State) : Host.Outcome State Fault Refusal :=
  if readsUnwritten s then .fault .unwritten else step s

/-- `k` steps, stopping at the first fault. -/
def plainRun : Nat → State → Host.Outcome State Fault Refusal
  | 0, s => .next s
  | k + 1, s =>
    match step s with
    | .next t => plainRun k t
    | .fault f => .fault f
    | .refused r => .refused r

/-- `k` strict steps, stopping at the first fault. -/
def strictRun : Nat → State → Host.Outcome State Fault Refusal
  | 0, s => .next s
  | k + 1, s =>
    match strictStep s with
    | .next t => strictRun k t
    | .fault f => .fault f
    | .refused r => .refused r

/-- The run of all pending actions: it ends when its last transaction completes (70_reset_and_hazards.md R177). -/
def runAll (s : State) : Host.Outcome State Fault Refusal := strictRun s.pending.length s

/-- The state that `k` strict steps reach: the one they answer, or, where one of them faults, the state in which it faulted,
since a fault changes nothing (20_memory.md R47, 10_state.md R36). -/
def strictReach : Nat → State → State
  | 0, s => s
  | k + 1, s =>
    match strictStep s with
    | .next t => strictReach k t
    | .fault _ => s
    | .refused _ => s

/-- The state in which the run of all pending actions ends, whatever the kind of its end (70_reset_and_hazards.md R177). -/
def runState (s : State) : State := strictReach s.pending.length s

/-- How a run ended (70_reset_and_hazards.md R177). -/
inductive RunEnd where
  | normal
  | faultedByAccessError
  | faultedByUnwritten
  /-- "which is not a fault: a DZ or ILL is an ordinary end state with STATUS set". -/
  | exceptionRecorded (dz ill : Bool)
  /-- The host form's refusal; no run of this model ends so. -/
  | refused
  deriving DecidableEq, Repr

/-- The kind of end of an outcome (70_reset_and_hazards.md R177). A run that ends with STATUS set is not counted as normal
(DEDUCED, log entry 14). -/
def runEnd : Host.Outcome State Fault Refusal → RunEnd
  | .next t =>
    if statusDz t.status || statusIll t.status then .exceptionRecorded (statusDz t.status) (statusIll t.status)
    else .normal
  | .fault .accessError => .faultedByAccessError
  | .fault .unwritten => .faultedByUnwritten
  | .refused _ => .refused

/-- What a data slot shows: its value, or nothing where it was never written. R34 leaves such a value unspecified, and R177 does
not say what a run's result shows for it (DESIGN CHOICE, log entry 20). -/
def shownSlot (d : DataSlot) (t : State) : Option Word := if isWritten d t then some (getSlot d t) else none

/-- The observable result of a run (70_reset_and_hazards.md R177). -/
structure Observable where
  /-- "the sequence of values its reads returned", oldest first. -/
  returned : List Word
  /-- "the final slot values", A_HI first, R_LO last; none for a slot never written (DESIGN CHOICE, log entry 20). -/
  slots : List (Option Word)
  status : Word
  deriving DecidableEq, Repr

/-- The observable result of a run that ended in the state `t` (70_reset_and_hazards.md R177). -/
def observable (t : State) : Observable where
  returned := t.returned
  slots := [DataSlot.aHi, .aLo, .bHi, .bLo, .qHi, .qLo, .rHi, .rLo].map fun d => shownSlot d t
  status := t.status

/-- The reset state with a host's actions still to do: where a run starts (70_reset_and_hazards.md R177). -/
def State.start (actions : List HostAction) : State := { State.reset with pending := actions }

/-- A run: how it ended, and its observable result, which a faulted run has too. -/
structure RunResult where
  kind : RunEnd
  result : Observable
  deriving DecidableEq, Repr

/-- The run of the pending actions of `s`. -/
def runResult (s : State) : RunResult where
  kind := runEnd (runAll s)
  result := observable (runState s)

/-- "A run is a finite sequence of host transactions, starting from the reset state of rule R170" (70_reset_and_hazards.md R177).
A reset that the host asserts between two of them is one of the actions (DEDUCED, log entry 20). -/
def run (actions : List HostAction) : RunResult := runResult (State.start actions)

end Sys2Proof.Machine
end

