-- ==== Sys2Proof/Machine/HostNotation.lean ====
section
/-! DEFINITION. The host notation: its lines, pseudo-instructions and disassembly (30_encoding.md R69 to R71). It drives the block
through `transact` and adds nothing to it. Control flow is the host's alone (10_state.md R29): a line here is one line. -/

namespace Sys2Proof.Machine

/-- The four 128-bit registers, as the notation names them (30_encoding.md R70). -/
inductive Reg where
  | A | B | Q | R
  deriving DecidableEq, Repr

/-- The HI slot of a register (20_memory.md R42). -/
def Reg.hiSlot : Reg → DataSlot
  | .A => .aHi
  | .B => .bHi
  | .Q => .qHi
  | .R => .rHi

/-- The LO slot of a register (20_memory.md R42). -/
def Reg.loSlot : Reg → DataSlot
  | .A => .aLo
  | .B => .bLo
  | .Q => .qLo
  | .R => .rLo

/-- The value of a register (10_state.md R20, R25). -/
def regValue : Reg → State → Int128
  | .A, s => opA s
  | .B, s => opB s
  | .Q, s => resQ s
  | .R, s => resR s

/-- The value a `wr` line writes: an immediate, or a host variable (the `mov` expansion of 30_encoding.md R70). -/
inductive Source where
  | imm (v : Word)
  | var (name : String)
  deriving DecidableEq, Repr

/-- A line of the notation (30_encoding.md R69). -/
inductive Line where
  | wr (d : DataSlot) (v : Source)
  | rd (S : Slot) (name : String)
  | cmd (i : Instr)
  | cmdRaw (w : Word)
  | label (name : String)
  | host (text : String)
  deriving DecidableEq, Repr

/-- The lines the notation admits: `wr` names an operand slot and `rd` a readable slot (30_encoding.md R69). -/
def Line.wf : Line → Bool
  | .wr d _ => d.isOperand
  | .rd (.data _) _ => true
  | .rd .status _ => true
  | .rd .cmd _ => false
  | .rd .reserved _ => false
  | .cmd _ => true
  | .cmdRaw _ => true
  | .label _ => true
  | .host _ => true

/-- The host's variables; the newest binding of a name stands first. -/
abbrev HostVars := List (String × Word)

/-- The value of a source; none for a variable that no line has bound (log entry 17). -/
def Source.value (vars : HostVars) : Source → Option Word
  | .imm v => some v
  | .var name => vars.lookup name

/-- The transaction a line stands for (30_encoding.md R69): none for a label or a host-side step. R69 does not say what a line
outside its forms stands for: a `wr` of a Q or R slot, its own or one that a pseudo-instruction expands to, a `rd` of CMD or of a
reserved slot, a `wr` of a variable that no line has bound. Here it stands for no transaction (DESIGN CHOICE, log entry 17). -/
def Line.action (vars : HostVars) : Line → Option HostAction
  | .wr d v => if d.isOperand then (v.value vars).map fun w => .write d.offset 8 w else none
  | .rd (.data d) _ => some (.read d.offset 8)
  | .rd .status _ => some (.read statusOffset 8)
  | .rd .cmd _ => none
  | .rd .reserved _ => none
  | .cmd i => some (.write cmdOffset 8 (encode i))
  | .cmdRaw w => some (.write cmdOffset 8 w)
  | .label _ => none
  | .host _ => none

/-- The host's variables after a line that read `v`, if it read anything: a `rd` line binds its variable to the value read, and a
`host:` line, such as an arithmetic step of the host, changes variables in a way the spec does not give (30_encoding.md R69; a free
value of its text and the variables, DESIGN CHOICE, log entry 17). No other line changes one. -/
def Line.bind (l : Line) (v : Option Word) (vars : HostVars) : HostVars :=
  match l, v with
  | .rd _ name, some w => (name, w) :: vars
  | .rd _ _, none => vars
  | .host text, _ => Config.hostStep text vars
  | .wr _ _, _ => vars
  | .cmd _, _ => vars
  | .cmdRaw _, _ => vars
  | .label _, _ => vars

/-- The pseudo-instructions (30_encoding.md R70). -/
inductive Pseudo where
  | ld (X : Reg) (imm : Int128)
  | lds (X : Reg) (imm : Word)
  | ldu (X : Reg) (imm : Word)
  | get (Y : Reg) (name : String)
  | mov (X Y : Reg)
  | run (i : Instr) (st : String)
  deriving DecidableEq, Repr

/-- A register the notation may load: A or B (30_encoding.md R70). -/
def Reg.isOperand : Reg → Bool
  | .A | .B => true
  | .Q | .R => false

/-- The forms the notation admits: X is A or B, and the Y of `mov` is Q or R (30_encoding.md R70). -/
def Pseudo.wf : Pseudo → Bool
  | .ld X _ => X.isOperand
  | .lds X _ => X.isOperand
  | .ldu X _ => X.isOperand
  | .get _ _ => true
  | .mov X Y => X.isOperand && !Y.isOperand
  | .run _ _ => true

/-- Exactly the lines that a pseudo-instruction stands for (30_encoding.md R70). R70 does not say what a form that `Pseudo.wf` refuses
stands for: a `ld`, `lds`, `ldu` or `mov` into Q or R, a `mov` from A or B. Here it stands for the lines of the same row, so that
`mov X, Y` with Y = A or B copies that register (DESIGN CHOICE, log entry 17). -/
def Pseudo.expand : Pseudo → List Line
  | .ld X imm => [.wr X.hiSlot (.imm (hiLimb imm)), .wr X.loSlot (.imm (loLimb imm))]
  | .lds X imm =>
    [.wr X.hiSlot (.imm (if imm.getLsbD 63 then 0xFFFFFFFFFFFFFFFF else 0)), .wr X.loSlot (.imm imm)]
  | .ldu X imm => [.wr X.hiSlot (.imm 0), .wr X.loSlot (.imm imm)]
  | .get Y name => [.rd (.data Y.hiSlot) (name ++ ".hi"), .rd (.data Y.loSlot) (name ++ ".lo")]
  | .mov X Y =>
    [.rd (.data Y.hiSlot) "t1", .rd (.data Y.loSlot) "t0", .wr X.hiSlot (.var "t1"), .wr X.loSlot (.var "t0")]
  | .run i st => [.cmd i, .rd .status st]

/-- A signed integer in `ld` or `lds` stands for its two's-complement bits (30_encoding.md R70). -/
def signedImm (n : Nat) (z : Int) : BitVec n := BitVec.ofInt n z

/-- The host performs one line on the block, as the hardware does it: an unwritten slot is read as it stands (log entry 2).
A line that stands for no transaction leaves the block alone; a `host:` line still does its own step on the host's variables. -/
def performLine (l : Line) (vars : HostVars) (s : State) : Host.Outcome (HostVars × State) Fault Refusal :=
  match l.action vars with
  | none => .next (l.bind none vars, s)
  | some a =>
    match transact a s with
    | .next t => .next (l.bind (readValue a s) vars, t)
    | .fault f => .fault f
    | .refused r => .refused r

/-- The host performs lines in order, one after the other. -/
def performLines : List Line → HostVars → State → Host.Outcome (HostVars × State) Fault Refusal
  | [], vars, s => .next (vars, s)
  | l :: rest, vars, s =>
    match performLine l vars s with
    | .next (vars', t) => performLines rest vars' t
    | .fault f => .fault f
    | .refused r => .refused r

/-- The mnemonic of a command (30_encoding.md R64). -/
def mnemonic : Instr → String
  | .add => "ADD"
  | .sub => "SUB"
  | .neg => "NEG"
  | .abs => "ABS"
  | .inc => "INC"
  | .dec => "DEC"
  | .sgn => "SGN"
  | .isz => "ISZ"
  | .isn => "ISN"
  | .isp => "ISP"
  | .cmp => "CMP"
  | .cmpu => "CMPU"
  | .mulu64 => "MULU64"
  | .mul => "MUL"
  | .divrem => "DIVREM"

/-- A hexadecimal digit, lower case. -/
def hexDigit (n : Nat) : Char := if n < 10 then Char.ofNat (48 + n) else Char.ofNat (87 + n)

/-- `%016x`: sixteen hexadecimal digits, most significant first. -/
def hex16 (w : Word) : String :=
  String.ofList ((List.range 16).map fun k => hexDigit (w.toNat / 16 ^ (15 - k) % 16))

/-- The disassembler: `cmd MNEMONIC` for a legal word, `cmd.raw 0x...` for every other (30_encoding.md R71). -/
def disassemble (w : Word) : String :=
  match decode w with
  | .ok i => "cmd " ++ mnemonic i
  | .error _ => "cmd.raw 0x" ++ hex16 w

end Sys2Proof.Machine
end

