-- ==== Sys2Proof/WellFormed.lean ====
section
/-! DEFINITION. What the host may present: the access rules of 20_memory.md R45 to R47, written over offsets and apart from the
machine, so that "the machine faults exactly on the others" is a statement and not a definition. -/

namespace Sys2Proof

/-- A command has no operand (30_encoding.md R66), so no command is ill-formed: there is nothing to check. -/
def Instr.wf : Instr → Bool
  | .add | .sub | .neg | .abs | .inc | .dec | .sgn | .isz | .isn | .isp | .cmp | .cmpu => true
  | .mulu64 | .mul => true
  | .divrem => true

/-- R45: the access is 8 bytes wide. -/
def widthOk (width : Nat) : Bool := width == 8

/-- R45: the offset is a multiple of 8. -/
def alignedOk (off : BitVec 7) : Bool := off.toNat % 8 == 0

/-- R47: the access does not touch a reserved slot, offsets 0x50 to 0x7F. -/
def notReserved (off : BitVec 7) : Bool := decide (off.toNat < 0x50)

/-- R46, reads: every slot but CMD, which is at 0x40. -/
def readDirectionOk (off : BitVec 7) : Bool := off.toNat / 8 != 8

/-- R46, writes: the four operand slots, at 0x00 to 0x1F, and CMD. -/
def writeDirectionOk (off : BitVec 7) : Bool := decide (off.toNat < 0x20) || off.toNat / 8 == 8

/-- An action the block admits (20_memory.md R45, R46); every other access is an ACCESS_ERROR (R47). -/
def HostAction.wf : HostAction → Bool
  | .read off width => widthOk width && alignedOk off && notReserved off && readDirectionOk off
  | .write off width _ => widthOk width && alignedOk off && notReserved off && writeDirectionOk off
  | .reset => true

end Sys2Proof
end

