-- ==== Sys2Proof/Safety.lean ====
section
/-! DEFINITION. What claims are made of: the invariant of a reachable state, what a command leaves alone, and when two states
look the same to a program that keeps to the slots it has written. -/

namespace Sys2Proof.Machine

/-- STATUS as the block can show it: the reserved bits read 0, and DZ and ILL are not both 1 (10_state.md R27,
60_exceptions.md R155). -/
def StatusLegal (w : Word) : Prop :=
  statusReserved w = 0 ∧ (statusDz w && statusIll w) = false

/-- The marks as commands leave them: Q is written whole, R is written whole, and only a DIVREM that completes writes R, which
writes Q as well (10_state.md R23, R24, R37). -/
def MarksLegal (m : Marks) : Prop :=
  m.qHi = m.qLo ∧ m.rHi = m.rLo ∧ (m.rHi = true → m.qHi = true)

/-- The invariant of the block. -/
def Inv (s : State) : Prop := StatusLegal s.status ∧ MarksLegal s.written

/-- The fifteen values of OP (30_encoding.md R64), as numbers. -/
def legalOps : List Nat :=
  [0x01, 0x02, 0x03, 0x04, 0x05, 0x06, 0x07, 0x08, 0x09, 0x0A, 0x0B, 0x0C, 0x10, 0x11, 0x20]

/-- `w[63:8] == 0` and `w[7:0]` is one of the fifteen values (30_encoding.md R63), without the decoder. -/
def LegalWord (w : Word) : Prop := w.toNat / 256 = 0 ∧ w.toNat % 256 ∈ legalOps

/-- `t` is `s` after a command that wrote `q` to Q, 0 to STATUS, and nothing else (40_adder.md R80, 41_multiplier.md R111):
A, B, R, the other marks and the host's side are as before. -/
def WroteQ (q : Int128) (s t : State) : Prop :=
  t = { s with qHi := hiLimb q, qLo := loLimb q, status := 0,
               written := { s.written with qHi := true, qLo := true } }

/-- `t` is `s` after a DIVREM that wrote `q` to Q, `r` to R, 0 to STATUS, and nothing else (42_divider.md R138). -/
def WroteQR (q r : Int128) (s t : State) : Prop :=
  t = { s with qHi := hiLimb q, qLo := loLimb q, rHi := hiLimb r, rLo := loLimb r, status := 0,
               written := { s.written with qHi := true, qLo := true, rHi := true, rLo := true } }

/-- `t` is `s` after the host wrote `v` to both slots of the register `X`: the other registers, the other marks, STATUS and what
is pending are as before (20_memory.md R49, 30_encoding.md R70). -/
def WroteReg (X : Reg) (v : Int128) (s t : State) : Prop :=
  regValue X t = v ∧ isWritten X.hiSlot t = true ∧ isWritten X.loSlot t = true ∧
    (∀ Z, Z ≠ X → regValue Z t = regValue Z s) ∧
    (∀ d, d ≠ X.hiSlot → d ≠ X.loSlot → isWritten d t = isWritten d s) ∧
    t.status = s.status ∧ t.pending = s.pending

/-- The unsigned value of operand A (10_state.md R25). -/
def uA (s : State) : Nat := unsignedValue s.aHi s.aLo

/-- The unsigned value of operand B (10_state.md R25). -/
def uB (s : State) : Nat := unsignedValue s.bHi s.bLo

/-- The signed value of operand A (10_state.md R25). -/
def sA (s : State) : Int := signedValue s.aHi s.aLo

/-- The signed value of operand B (10_state.md R25). -/
def sB (s : State) : Int := signedValue s.bHi s.bLo

/-- Two states that agree on STATUS, the marks, the host's side and every WRITTEN slot; what unwritten slots hold may differ
(10_state.md R34, R35). -/
def AgreeOnWritten (s t : State) : Prop :=
  s.status = t.status ∧ s.written = t.written ∧ s.pending = t.pending ∧ s.returned = t.returned ∧
    ∀ d, isWritten d s = true → getSlot d s = getSlot d t

/-- Two outcomes that look the same to a program that keeps to the slots it has written. -/
def OutcomesAgree : Host.Outcome State Fault Refusal → Host.Outcome State Fault Refusal → Prop
  | .next s, .next t => AgreeOnWritten s t
  | .fault f, .fault g => f = g
  | .refused p, .refused q => p = q
  | _, _ => False

/-- A run that keeps to the host's duties of 20_memory.md R58 and 70_reset_and_hazards.md R172: `k` strict steps answer a state. -/
def SafeRun (k : Nat) (s : State) : Prop := ∃ t, strictRun k s = .next t

end Sys2Proof.Machine
end

