-- ==== Sys2Proof/Certificates/Slice0/Obligations.lean ====
section
/-! DEFINITION. The statements for the provers, from the numbered rules of spec/. Where a statement rests on a choice of the
model's own, its docstring names the log entry. -/

open Sys2Proof Sys2Proof.Machine

/-! ### Encoding and decoding -/

/-- R64: a word decodes to a command exactly if it is that command's word `zext64(OP)`. -/
def Obligations.DecodeAgreesWithEncode : Prop :=
  ∀ (w : Word) (i : Instr), decode w = .ok i ↔ w = encode i

/-- R63: the legal words are those with RSV 0 and one of the fifteen OP values, and there are exactly fifteen of them. -/
def Obligations.LegalWordsAreExactlyFifteen : Prop :=
  (∀ w : Word, (∃ i, decode w = .ok i) ↔ LegalWord w) ∧
  ∃ l : List Word, l.length = 15 ∧ l.Nodup ∧ ∀ w : Word, w ∈ l ↔ ∃ i, decode w = .ok i

/-- R64, a few rows: words written out from the opcode map decode to the commands they stand for. -/
def Obligations.OpcodeMapRowsDecode : Prop :=
  decode 0x0000000000000001 = .ok .add ∧ decode 0x000000000000000C = .ok .cmpu ∧
  decode 0x0000000000000010 = .ok .mulu64 ∧ decode 0x0000000000000011 = .ok .mul ∧
  decode 0x0000000000000020 = .ok .divrem

/-- R43: the eight bytes of a word, most significant first, stand for that word, so the decoder reads bytes and words alike. -/
def Obligations.BytesOfAWordStandForIt : Prop :=
  ∀ w : Word, wordOfBytes (bytesOfWord w) = some w ∧ decodeBytes (bytesOfWord w) = decode w

/-- R71: a legal word prints as its mnemonic, every other word as its sixteen digits, most significant first. The mnemonics are
the fifteen of R64, and digit `k` is the lower-case digit of bits `63-4k : 60-4k`. -/
def Obligations.DisassemblyPrintsMnemonicOrRaw : Prop :=
  (∀ w : Word, (∀ i, w = encode i → disassemble w = "cmd " ++ mnemonic i) ∧
    (¬ LegalWord w → ∃ digits : List Char, disassemble w = "cmd.raw 0x" ++ String.ofList digits ∧ digits.length = 16 ∧
      ∀ k, k < 16 → digits[k]? = "0123456789abcdef".toList[(w.extractLsb' (60 - 4 * k) 4).toNat]?)) ∧
  mnemonic .add = "ADD" ∧ mnemonic .sub = "SUB" ∧ mnemonic .neg = "NEG" ∧ mnemonic .abs = "ABS" ∧ mnemonic .inc = "INC" ∧
  mnemonic .dec = "DEC" ∧ mnemonic .sgn = "SGN" ∧ mnemonic .isz = "ISZ" ∧ mnemonic .isn = "ISN" ∧ mnemonic .isp = "ISP" ∧
  mnemonic .cmp = "CMP" ∧ mnemonic .cmpu = "CMPU" ∧ mnemonic .mulu64 = "MULU64" ∧ mnemonic .mul = "MUL" ∧ mnemonic .divrem = "DIVREM"

/-! ### The step -/

/-- R67, R68: a step whose action is a write to CMD of a word that decodes to `i` is `exec i`, the action taken off the host's
queue. Two clauses are the model's choice: this step runs past R68's `model_fault(UNWRITTEN)` (log entry 2; `strictStep` is the one
that stops there), and `withFetchWord` puts such a write before every other pending action, so that the next step runs it (log
entry 9). -/
def Obligations.StepRunsDecodedCommand : Prop :=
  ∀ (s : State) (w : Word) (rest : List HostAction) (i : Instr),
    decode w = .ok i →
      (s.pending = .write 0x40 8 w :: rest → step s = exec i { s with pending := rest }) ∧
      step (s.withFetchWord 64 w.toNat) = exec i s

/-- R65, R152: an illegal word sets STATUS to 2 and does nothing else. -/
def Obligations.IllegalWordRaisesIllOnly : Prop :=
  ∀ (s : State) (w : Word) (rest : List HostAction),
    s.pending = .write 0x40 8 w :: rest →
    (w.toNat / 256 ≠ 0 ∨ w.toNat % 256 = 0 ∨ (0x0D ≤ w.toNat % 256 ∧ w.toNat % 256 ≤ 0x0F) ∨
      (0x12 ≤ w.toNat % 256 ∧ w.toNat % 256 ≤ 0x1F) ∨ 0x21 ≤ w.toNat % 256) →
    step s = .next { s with pending := rest, status := 2 }

/-- R158: a write to CMD rewrites the whole of STATUS: 2 for an illegal word, 1 for DIVREM with B zero, 0 otherwise. -/
def Obligations.StatusDescribesLastCommand : Prop :=
  ∀ (s : State) (w : Word) (rest : List HostAction),
    s.pending = .write 0x40 8 w :: rest →
    ∃ t, step s = .next t ∧
      (¬ LegalWord w → t.status = 2) ∧
      (w = 0x20 ∧ s.bHi = 0 ∧ s.bLo = 0 → t.status = 1) ∧
      (LegalWord w ∧ ¬ (w = 0x20 ∧ s.bHi = 0 ∧ s.bLo = 0) → t.status = 0)

/-- R46: the step faults with ACCESS_ERROR on every access that the table does not allow, and on no other. -/
def Obligations.AccessErrorExactlyWhereNotAllowed : Prop :=
  ∀ (s : State) (a : HostAction) (rest : List HostAction), s.pending = a :: rest →
    (a.wf = false → step s = .fault .accessError) ∧ (a.wf = true → ∃ t, step s = .next t)

/-- R48: a read of a data slot or STATUS returns its value, in the byte order of R43, and changes nothing; a second read returns
the same; and in the strict reading a slot whose mark is clear is `model_fault(UNWRITTEN)` (log entry 2). -/
def Obligations.ReadReturnsSlotAndChangesNothing : Prop :=
  ∀ (s : State) (rest : List HostAction),
    (∀ d : DataSlot, s.pending = .read d.offset 8 :: rest →
      step s = .next { s with pending := rest, returned := s.returned ++ [getSlot d s] } ∧
      busResponse (.read d.offset 8) s = .readData (bytesOfWord (getSlot d s)) ∧
      (isWritten d s = false → strictStep s = .fault .unwritten)) ∧
    (s.pending = .read 0x48 8 :: rest →
      step s = .next { s with pending := rest, returned := s.returned ++ [s.status] } ∧
      busResponse (.read 0x48 8) s = .readData (bytesOfWord s.status)) ∧
    (∀ (off : BitVec 7) (t : State), s.pending = .read off 8 :: .read off 8 :: rest → plainRun 2 s = .next t →
      ∃ v, t = { s with pending := rest, returned := s.returned ++ [v, v] })

/-- R49: a write to a slot of A or B sets the slot and its mark, and has no other effect. -/
def Obligations.OperandWriteSetsSlotAndMark : Prop :=
  ∀ (s : State) (d : DataSlot) (v : Word) (rest : List HostAction),
    d ∈ [DataSlot.aHi, .aLo, .bHi, .bLo] → s.pending = .write d.offset 8 v :: rest →
    ∃ t, step s = .next t ∧ getSlot d t = v ∧ isWritten d t = true ∧
      (∀ e, e ≠ d → getSlot e t = getSlot e s ∧ isWritten e t = isWritten e s) ∧
      t.status = s.status ∧ t.pending = rest ∧ t.returned = s.returned

/-- R170: reset makes STATUS 0 and clears the marks. That what is pending and what was returned stay as they are is the model's
choice (log entry 10). What the data slots then hold is the model's choice too (log entry 1), and is not said here. -/
def Obligations.ResetClearsStatusAndMarks : Prop :=
  ∀ (s : State) (rest : List HostAction), s.pending = .reset :: rest →
    ∃ t, step s = .next t ∧ t.status = 0 ∧ (∀ d, isWritten d t = false) ∧
      t.pending = rest ∧ t.returned = s.returned

/-- R43: byte `k` of the sixteen bytes of A, B, Q and R in the window is bits `127-8k : 120-8k` of the register, and byte `j` of
STATUS is its bits `63-8j : 56-8j`. -/
def Obligations.RegisterBytesAreBigEndian : Prop :=
  ∀ (s : State) (k : Nat), k < 16 →
    (k < 8 → windowByte (BitVec.ofNat 7 (0x48 + k)) s = some (s.status.extractLsb' (56 - 8 * k) 8)) ∧
    windowByte (BitVec.ofNat 7 k) s = some ((opA s).extractLsb' (120 - 8 * k) 8) ∧
    windowByte (BitVec.ofNat 7 (0x10 + k)) s = some ((opB s).extractLsb' (120 - 8 * k) 8) ∧
    windowByte (BitVec.ofNat 7 (0x20 + k)) s = some ((resQ s).extractLsb' (120 - 8 * k) 8) ∧
    windowByte (BitVec.ofNat 7 (0x30 + k)) s = some ((resR s).extractLsb' (120 - 8 * k) 8)

/-- From R41: CORE_BASE is a multiple of 128, the offset of an address in the window is `addr - CORE_BASE`, which is address bits
6:0, and an address outside the window reaches nothing of the block. Two things are the model's choice: the address of an access's
first byte alone decides whether it is the block's, whatever its width (log entry 4), and addresses have no upper bound (log
entry 6). -/
def Obligations.WindowDecodesLowAddressBits : Prop :=
  Config.coreBase % 128 = 0 ∧
  ∀ (addr n : Nat) (bytes : List Byte) (s : State),
    (Config.coreBase ≤ addr → addr < Config.coreBase + 128 →
      (windowOffset addr).toNat = addr - Config.coreBase ∧ (windowOffset addr).toNat = addr % 128 ∧
      windowAction (.memRead addr n) = some (.read (windowOffset addr) n) ∧
      ∃ v, windowAction (.memWrite addr bytes) = some (.write (windowOffset addr) bytes.length v) ∧
        (bytes.length = 8 → wordOfBytes bytes = some v)) ∧
    (addr < Config.coreBase ∨ Config.coreBase + 128 ≤ addr →
      present (.memRead addr n) s = s ∧ present (.memWrite addr bytes) s = s)

/-! ### The adder family -/

/-- R81: the limb adder is addition modulo 2^128, read as unsigned or as signed; its carry test is exact. -/
def Obligations.LimbAdderIsModularAddition : Prop :=
  ∀ a b : Int128,
    add128 a b = BitVec.ofNat 128 (a.toNat + b.toNat) ∧ add128 a b = BitVec.ofInt 128 (a.toInt + b.toInt) ∧
    (carryOut (loLimb a + loLimb b) (loLimb a) = 1 ↔ 2 ^ 64 ≤ (loLimb a).toNat + (loLimb b).toNat)

/-- R82: the limb subtractor is subtraction modulo 2^128; the two readings of the borrow test agree. -/
def Obligations.LimbSubtractorIsModularSubtraction : Prop :=
  ∀ a b : Int128,
    sub128 a b = BitVec.ofInt 128 ((a.toNat : Int) - b.toNat) ∧ sub128 a b = BitVec.ofInt 128 (a.toInt - b.toInt) ∧
    (borrowOut (loLimb a) (loLimb b) = 1 ↔ (loLimb a).toNat < (loLimb a - loLimb b).toNat)

/-- R83: the limb negator is complement plus one, negation, and subtraction from zero; MIN_VALUE is its own negation. -/
def Obligations.LimbNegatorIsNegation : Prop :=
  (∀ a : Int128, neg128 a = add128 (~~~ a) 1 ∧ neg128 a = BitVec.ofInt 128 (-a.toInt) ∧ neg128 a = sub128 0 a) ∧
  neg128 minValue = minValue

/-- R96: the laws of the family. -/
def Obligations.AdderFamilyLaws : Prop :=
  (∀ x y : Int128, add128 x y = add128 y x ∧ sub128 x y = add128 x (neg128 y) ∧ neg128 (neg128 x) = x ∧
    ((2 ^ 128 : Int) ∣ (add128 x y).toInt - (x.toInt + y.toInt)) ∧
    ((add128 x y).toInt = x.toInt + y.toInt ↔ -2 ^ 127 ≤ x.toInt + y.toInt ∧ x.toInt + y.toInt < 2 ^ 127)) ∧
  add128 maxValue 1 = minValue ∧ sub128 minValue 1 = maxValue ∧ neg128 minValue = minValue

/-- R84: ADD. -/
def Obligations.AddWritesWrappedSum : Prop :=
  decode 0x01 = .ok .add ∧ ∀ s : State, ∃ t q, exec .add s = .next t ∧ WroteQ q s t ∧
    q.toNat = (uA s + uB s) % 2 ^ 128

/-- R85: SUB, A minus B. -/
def Obligations.SubWritesWrappedDifference : Prop :=
  decode 0x02 = .ok .sub ∧ ∀ s : State, ∃ t q, exec .sub s = .next t ∧ WroteQ q s t ∧
    (q.toNat : Int) = ((uA s : Int) - uB s) % 2 ^ 128

/-- R86: NEG; its only fixed points are 0 and MIN_VALUE, and negation is an involution for every value. -/
def Obligations.NegWritesNegation : Prop :=
  decode 0x03 = .ok .neg ∧ ∀ s : State, ∃ t q, exec .neg s = .next t ∧ WroteQ q s t ∧
    (q.toNat : Int) = (-(uA s : Int)) % 2 ^ 128 ∧ (q = opA s ↔ uA s = 0 ∨ uA s = 2 ^ 127) ∧ neg128 q = opA s

/-- R87: ABS is the magnitude, read as unsigned; MIN_VALUE's is 2^127. -/
def Obligations.AbsWritesMagnitude : Prop :=
  decode 0x04 = .ok .abs ∧ ∀ s : State, ∃ t q, exec .abs s = .next t ∧ WroteQ q s t ∧ q.toNat = (sA s).natAbs

/-- R88: INC. -/
def Obligations.IncWritesSuccessor : Prop :=
  decode 0x05 = .ok .inc ∧ ∀ s : State, ∃ t q, exec .inc s = .next t ∧ WroteQ q s t ∧
    q.toNat = (uA s + 1) % 2 ^ 128

/-- R89: DEC. -/
def Obligations.DecWritesPredecessor : Prop :=
  decode 0x06 = .ok .dec ∧ ∀ s : State, ∃ t q, exec .dec s = .next t ∧ WroteQ q s t ∧
    (q.toNat : Int) = ((uA s : Int) - 1) % 2 ^ 128

/-- R90: SGN writes the Int128 value -1, 0 or +1. -/
def Obligations.SgnWritesSign : Prop :=
  decode 0x07 = .ok .sgn ∧ ∀ s : State, ∃ t q, exec .sgn s = .next t ∧ WroteQ q s t ∧ q.toInt = (sA s).sign

/-- R91, R92, R93: the predicates, on the signed value of A; zero is not positive, and ISP gives 1 exactly where SGN gives 1. -/
def Obligations.PredicatesWriteTruth : Prop :=
  decode 0x08 = .ok .isz ∧ decode 0x09 = .ok .isn ∧ decode 0x0A = .ok .isp ∧
  ∀ s : State,
    (∃ t q, exec .isz s = .next t ∧ WroteQ q s t ∧ q.toNat = if sA s = 0 then 1 else 0) ∧
    (∃ t q, exec .isn s = .next t ∧ WroteQ q s t ∧ q.toNat = if sA s < 0 then 1 else 0) ∧
    (∃ t q, exec .isp s = .next t ∧ WroteQ q s t ∧ (q.toNat = if 0 < sA s then 1 else 0) ∧
      ∃ t' q', exec .sgn s = .next t' ∧ WroteQ q' s t' ∧ (q = 1 ↔ q' = 1))

/-- R94: CMP, the exact signed order. -/
def Obligations.CmpWritesSignedOrder : Prop :=
  decode 0x0B = .ok .cmp ∧ ∀ s : State, ∃ t q, exec .cmp s = .next t ∧ WroteQ q s t ∧
    q.toInt = if sA s < sB s then -1 else if sA s = sB s then 0 else 1

/-- R95: CMPU, the exact unsigned order. -/
def Obligations.CmpuWritesUnsignedOrder : Prop :=
  decode 0x0C = .ok .cmpu ∧ ∀ s : State, ∃ t q, exec .cmpu s = .next t ∧ WroteQ q s t ∧
    q.toInt = if uA s < uB s then -1 else if uA s = uB s then 0 else 1

/-! ### The multiplier family -/

/-- R110: the 64 by 64 primitive is the exact product; its low half is the wrapping product of the limbs. -/
def Obligations.LimbMultiplierIsExact : Prop :=
  ∀ x y : Word, (mulU64 x y).toNat = x.toNat * y.toNat ∧ loLimb (mulU64 x y) = x * y ∧
    (mulU64 x y).toNat ≤ (2 ^ 64 - 1) ^ 2

/-- R112: MULU64 multiplies the low limbs, unsigned, whatever the high limbs hold. -/
def Obligations.Mulu64WritesExactProduct : Prop :=
  decode 0x10 = .ok .mulu64 ∧ ∀ s : State, ∃ t q, exec .mulu64 s = .next t ∧ WroteQ q s t ∧
    q.toNat = s.aLo.toNat * s.bLo.toNat

/-- R113: MUL writes the product modulo 2^128, and signedness does not matter. -/
def Obligations.MulWritesWrappedProduct : Prop :=
  decode 0x11 = .ok .mul ∧ ∀ s : State, ∃ t q, exec .mul s = .next t ∧ WroteQ q s t ∧
    q.toNat = (uA s * uB s) % 2 ^ 128 ∧ ((2 ^ 128 : Int) ∣ q.toInt - sA s * sB s)

/-- R114: the laws of the family, on every pair of values. -/
def Obligations.MultiplierFamilyLaws : Prop :=
  (∀ a b : Int128, mul128 a b = BitVec.ofNat 128 (a.toNat * b.toNat) ∧
    mul128 a b = BitVec.ofInt 128 (a.toInt * b.toInt) ∧ mul128 a b = mul128 b a) ∧
  ∀ x y : Word, (mulU64 x y).toNat = x.toNat * y.toNat ∧ mulU64 x y = mulU64 y x

/-! ### The divider family -/

/-- R122: the magnitude of every operand, MIN_VALUE among them, is its absolute value read as unsigned. -/
def Obligations.MagnitudeIsAbsoluteValue : Prop :=
  ∀ v : Int128, (magnitude v).toNat = v.toInt.natAbs ∧ (magnitude v).toNat ≤ 2 ^ 127

/-- R126: the fast path's 64 iterations give the exact floor quotient and remainder of the two-limb dividend. -/
def Obligations.FastPathIsFloorDivision : Prop :=
  ∀ xHi xLo d : Word, d ≠ 0 →
    (divFast xHi xLo d).1.toNat = unsignedValue xHi xLo / d.toNat ∧
    (divFast xHi xLo d).2.toNat = unsignedValue xHi xLo % d.toNat

/-- R128: normalization loses no bit, sets the top bit of `d1`, and leaves `n2 < d1`. -/
def Obligations.NormalizationLosesNoBit : Prop :=
  ∀ ua ub : Int128, hiLimb ub ≠ 0 →
    (normalize ua ub).shift ≤ 63 ∧
    (normalize ua ub).bn.toNat = ub.toNat * 2 ^ (normalize ua ub).shift ∧
    unsignedValue (normalize ua ub).d1 (normalize ua ub).d0 = (normalize ua ub).bn.toNat ∧
    2 ^ 63 ≤ (normalize ua ub).d1.toNat ∧
    (threeLimbs (normalize ua ub)).toNat = ua.toNat * 2 ^ (normalize ua ub).shift ∧
    ((normalize ua ub).shift = 0 → (normalize ua ub).n2 = 0) ∧
    ((normalize ua ub).shift ≠ 0 → (normalize ua ub).n2 = hiLimb ua >>> (64 - (normalize ua ub).shift)) ∧
    (normalize ua ub).n2.toNat < 2 ^ (normalize ua ub).shift ∧
    (normalize ua ub).n2.toNat < (normalize ua ub).d1.toNat

/-- R129, R130: the trial quotient and remainder are exact, and the top-limb correction never fires. -/
def Obligations.TrialQuotientFitsOneLimb : Prop :=
  ∀ ua ub : Int128, hiLimb ub ≠ 0 →
    (trialQuotient (normalize ua ub)).qHat.toNat =
      unsignedValue (normalize ua ub).n2 (normalize ua ub).n1 / (normalize ua ub).d1.toNat ∧
    (trialQuotient (normalize ua ub)).rHat.toNat =
      unsignedValue (normalize ua ub).n2 (normalize ua ub).n1 % (normalize ua ub).d1.toNat ∧
    (trialQuotient (normalize ua ub)).qHat.toNat < 2 ^ 64 ∧
    topCorrectionFires (trialQuotient (normalize ua ub)) = false

/-- R131, R132, R134: the guarded refinement leaves the exact quotient, which fits in one limb; it lowers the trial quotient at
most once; and the final restore never fires. -/
def Obligations.RefinementLeavesExactQuotient : Prop :=
  ∀ ua ub : Int128, hiLimb ub ≠ 0 →
    (refinedTrial (normalize ua ub)).qHat.toNat = ua.toNat / ub.toNat ∧
    ua.toNat / ub.toNat < 2 ^ 64 ∧
    (trialQuotient (normalize ua ub)).qHat.toNat ≤ (refinedTrial (normalize ua ub)).qHat.toNat + 1 ∧
    restoreFires (normalize ua ub) (refinedTrial (normalize ua ub)) = false

/-- R136: the unsigned divider is floor division, for every dividend and every nonzero divisor. -/
def Obligations.UnsignedDividerIsFloorDivision : Prop :=
  ∀ ua ub : Int128, ub ≠ 0 →
    (divu ua ub).1.toNat = ua.toNat / ub.toNat ∧ (divu ua ub).2.toNat = ua.toNat % ub.toNat

/-- R139: DIVREM truncates toward zero, exactly but for MIN_VALUE by -1, which wraps; and in every case the contract of R120,
items 1 to 3, holds. -/
def Obligations.DivremTruncatesTowardZero : Prop :=
  decode 0x20 = .ok .divrem ∧ ∀ s : State, sB s ≠ 0 →
    ∃ t q r, exec .divrem s = .next t ∧ WroteQR q r s t ∧
      (¬ (sA s = -2 ^ 127 ∧ sB s = -1) → q.toInt = (sA s).tdiv (sB s) ∧ r.toInt = sA s - q.toInt * sB s) ∧
      (sA s = -2 ^ 127 ∧ sB s = -1 → q = minValue ∧ r = 0) ∧
      opA s = q * opB s + r ∧ r.toInt.natAbs < (sB s).natAbs ∧ (r = 0 ∨ (r.toInt < 0 ↔ sA s < 0))

/-- R140: MIN_VALUE as an operand. -/
def Obligations.DivremOnMinValue : Prop :=
  ∀ s : State,
    (opA s = minValue → opB s = minValue → ∃ t, exec .divrem s = .next t ∧ WroteQR 1 0 s t) ∧
    (opA s ≠ minValue → opB s = minValue → ∃ t, exec .divrem s = .next t ∧ WroteQR 0 (opA s) s t) ∧
    (opA s = minValue → opB s = 1 → ∃ t, exec .divrem s = .next t ∧ WroteQR minValue 0 s t) ∧
    (opA s = minValue → opB s = 2 → ∃ t, exec .divrem s = .next t ∧
      WroteQR 0xC0000000000000000000000000000000 0 s t) ∧
    (opA s = minValue → opB s = 3 → ∃ t, exec .divrem s = .next t ∧
      WroteQR 0xD5555555555555555555555555555556 0xFFFFFFFFFFFFFFFFFFFFFFFFFFFFFFFE s t)

/-- R151: DIVREM with B zero sets STATUS to 1 and does nothing else. -/
def Obligations.DivremByZeroRaisesDzOnly : Prop :=
  ∀ s : State, s.bHi = 0 → s.bLo = 0 → exec .divrem s = .next { s with status := 1 }

/-! ### Whole-machine rules -/

/-- R37: every command completes; it leaves every slot outside its write set, every mark outside it, every byte of the window
outside it and STATUS, and the host's side as they were; without an exception its whole write set is marked, and with one it
writes STATUS alone. -/
def Obligations.CommandWritesOnlyItsWriteSet : Prop :=
  ∀ (i : Instr) (s : State), ∃ t, exec i s = .next t ∧
    (∀ d, d ∉ writeSet i → getSlot d t = getSlot d s ∧ isWritten d t = isWritten d s) ∧
    (∀ off, slotAt off ≠ .status → (∀ d ∈ writeSet i, slotAt off ≠ .data d) → windowByte off t = windowByte off s) ∧
    t.pending = s.pending ∧ t.returned = s.returned ∧
    (¬ (i = .divrem ∧ opB s = 0) → t.status = 0 ∧ ∀ d ∈ writeSet i, isWritten d t = true) ∧
    (i = .divrem ∧ opB s = 0 → t = { s with status := 1 })

/-- R37, R38: a command's results depend only on its read set. -/
def Obligations.CommandDependsOnlyOnItsReadSet : Prop :=
  ∀ (i : Instr) (s t : State), (∀ d ∈ readSet i, getSlot d s = getSlot d t) →
    ∃ s' t', exec i s = .next s' ∧ exec i t = .next t' ∧ s'.status = t'.status ∧
      (s'.status = 0 → ∀ d ∈ writeSet i, getSlot d s' = getSlot d t')

/-- R38, R50: a command run again on the state it left, with no write between, changes nothing more. -/
def Obligations.CommandRunAgainChangesNothing : Prop :=
  ∀ (i : Instr) (s t : State), exec i s = .next t → exec i t = .next t

/-- R21, R22: only a host write to the same slot, or reset, changes a slot of A or B. -/
def Obligations.OperandsChangeOnlyByHostWrite : Prop :=
  ∀ (s t : State) (a : HostAction) (rest : List HostAction) (d : DataSlot),
    s.pending = a :: rest → step s = .next t → d ∈ [DataSlot.aHi, .aLo, .bHi, .bLo] →
    a ≠ .reset → (∀ v, a ≠ .write d.offset 8 v) →
    getSlot d t = getSlot d s ∧ isWritten d t = isWritten d s

/-- R23, R24: only a command that completes changes Q, and only a DIVREM that completes changes R (reset apart). -/
def Obligations.ResultsChangeOnlyByCompletedCommands : Prop :=
  ∀ (s t : State) (a : HostAction) (rest : List HostAction),
    s.pending = a :: rest → step s = .next t → a ≠ .reset →
    ((∀ w, a = .write 0x40 8 w → ¬ LegalWord w ∨ (w = 0x20 ∧ opB s = 0)) →
      resQ t = resQ s ∧ t.written.qHi = s.written.qHi ∧ t.written.qLo = s.written.qLo) ∧
    ((a = .write 0x40 8 0x20 → opB s = 0) →
      resR t = resR s ∧ t.written.rHi = s.written.rHi ∧ t.written.rLo = s.written.rLo)

/-- R52: a read of an operand slot returns the value of the most recent write to it, whatever admitted actions stand between. -/
def Obligations.ReadReturnsMostRecentWrite : Prop :=
  ∀ (s : State) (d : DataSlot) (v : Word) (mid rest : List HostAction),
    d ∈ [DataSlot.aHi, .aLo, .bHi, .bLo] →
    s.pending = .write d.offset 8 v :: (mid ++ .read d.offset 8 :: rest) →
    (∀ a ∈ mid, a.wf = true ∧ a ≠ .reset ∧ ∀ v', a ≠ .write d.offset 8 v') →
    ∃ t before, plainRun (mid.length + 2) s = .next t ∧ t.returned = before ++ [v] ∧ t.pending = rest

/-- The invariant holds at reset. -/
def Obligations.InvariantHoldsAtReset : Prop := Inv State.reset

/-- R27, R155 and the marks of R35: every step keeps STATUS legal (reserved bits 0, not both DZ and ILL) and the marks of Q and
of R whole, R written only where Q is. -/
def Obligations.StepKeepsInvariant : Prop :=
  ∀ s t : State, Inv s → step s = .next t → Inv t

/-! ### Unwritten slots -/

/-- R36: the strict step is `model_fault(UNWRITTEN)` exactly on a read of a slot, or a legal command whose read set holds a slot,
whose mark is clear; elsewhere it is the step. (The step itself goes on, log entry 2.) -/
def Obligations.StrictStepFaultsExactlyOnUnwritten : Prop :=
  ∀ s : State,
    (strictStep s = .fault .unwritten ↔
      (∃ d rest, s.pending = .read d.offset 8 :: rest ∧ isWritten d s = false) ∨
      (∃ i rest, s.pending = .write 0x40 8 (encode i) :: rest ∧ ∃ d ∈ readSet i, isWritten d s = false)) ∧
    (strictStep s ≠ .fault .unwritten → strictStep s = step s)

/-- R154: ACCESS_ERROR, then ILL, then UNWRITTEN, then DZ: only the first that applies has any effect. -/
def Obligations.ConditionsTakePriorityInOrder : Prop :=
  ∀ (s : State) (rest : List HostAction),
    (∀ a, s.pending = a :: rest → a.wf = false → strictStep s = .fault .accessError) ∧
    (∀ w, s.pending = .write 0x40 8 w :: rest → ¬ LegalWord w →
      strictStep s = .next { s with pending := rest, status := 2 }) ∧
    (∀ i, s.pending = .write 0x40 8 (encode i) :: rest → (∃ d ∈ readSet i, isWritten d s = false) →
      strictStep s = .fault .unwritten) ∧
    (s.pending = .write 0x40 8 0x20 :: rest → (∀ d ∈ readSet .divrem, isWritten d s = true) → opB s = 0 →
      strictStep s = .next { s with pending := rest, status := 1 })

/-- R34, R35, R36: a run in the strict reading cannot tell what unwritten slots hold, so nothing proved of such a run rests on
the values the model names at reset (log entry 1). -/
def Obligations.UnwrittenSlotsCannotBeObserved : Prop :=
  ∀ (k : Nat) (s t : State), AgreeOnWritten s t → OutcomesAgree (strictRun k s) (strictRun k t)

/-- R36: where the strict run answers a state, the plain run answers the same state. -/
def Obligations.PlainRunFollowsStrictRun : Prop :=
  ∀ (k : Nat) (s t : State), strictRun k s = .next t → plainRun k s = .next t

/-! ### Runs -/

/-- From R177 (and R47, R36 for what a fault leaves): a strict run that answers a state ends in it, and one that faults ends in the
state that its steps before the fault answered, in which the next step is that fault. -/
def Obligations.RunStateIsWhereTheRunEnds : Prop :=
  ∀ (k : Nat) (s : State),
    (∀ t, strictRun k s = .next t → strictReach k s = t) ∧
    (∀ f, strictRun k s = .fault f →
      ∃ j, j < k ∧ strictRun j s = .next (strictReach k s) ∧ strictStep (strictReach k s) = .fault f)

/-- From R177: every run from reset ends in one of the four kinds, an exception being DZ or ILL and not both (R155). A run that
ends normally or with an exception has completed its last transaction, and shows STATUS 0, 1 or 2; a faulted run has stopped
before the action that faults, which an ACCESS_ERROR makes one that R46 does not admit. That a run with STATUS set is not normal
is the model's reading (log entry 14); that a run may hold a reset, log entry 20. -/
def Obligations.RunEndsInOneOfFourKinds : Prop :=
  ∀ actions : List HostAction,
    ((run actions).kind = .normal ∧ (run actions).result.status = 0 ∧ (runState (State.start actions)).pending = []) ∨
    ((run actions).kind = .exceptionRecorded true false ∧ (run actions).result.status = 1 ∧
      (runState (State.start actions)).pending = []) ∨
    ((run actions).kind = .exceptionRecorded false true ∧ (run actions).result.status = 2 ∧
      (runState (State.start actions)).pending = []) ∨
    ((run actions).kind = .faultedByAccessError ∧
      ∃ before a rest, actions = before ++ a :: rest ∧ a.wf = false ∧
        (runState (State.start actions)).pending = a :: rest) ∨
    ((run actions).kind = .faultedByUnwritten ∧
      ∃ before a rest, actions = before ++ a :: rest ∧ a.wf = true ∧
        (runState (State.start actions)).pending = a :: rest ∧
        ∃ d ∈ slotsRead a, isWritten d (runState (State.start actions)) = false)

/-- From R34, R177: the kind and the observable result of a run are the same whatever the slots hold that reset leaves unspecified,
for a faulted run too. So no result of a run rests on the values the model names at reset (log entry 1). That the result shows an
unwritten slot as none is the model's choice (log entry 20). -/
def Obligations.RunResultIgnoresUnspecifiedSlots : Prop :=
  ∀ (actions : List HostAction) (s : State), AgreeOnWritten (State.start actions) s → runResult s = run actions

/-! ### The host notation -/

/-- R70: `ld`, `lds` and `ldu` fill A or B with the value the notation gives, and `mov` copies Q or R into A or B and reads the
result's two limbs; every other register is as before. The lines run as on the hardware, past unwritten slots (log entry 2). -/
def Obligations.PseudoInstructionsMoveValues : Prop :=
  ∀ (s : State) (vars : HostVars) (X Y : Reg) (v : Int128) (x : Word), X.isOperand = true →
    (∃ t, performLines (Pseudo.ld X v).expand vars s = .next (vars, t) ∧ WroteReg X v s t ∧ t.returned = s.returned) ∧
    (∃ t, performLines (Pseudo.lds X x).expand vars s = .next (vars, t) ∧ WroteReg X (BitVec.ofInt 128 x.toInt) s t ∧
      t.returned = s.returned) ∧
    (∃ t, performLines (Pseudo.ldu X x).expand vars s = .next (vars, t) ∧ WroteReg X (BitVec.ofNat 128 x.toNat) s t ∧
      t.returned = s.returned) ∧
    (Y.isOperand = false →
      ∃ vars' t, performLines (Pseudo.mov X Y).expand vars s = .next (vars', t) ∧ WroteReg X (regValue Y s) s t ∧
        t.returned = s.returned ++ [hiLimb (regValue Y s), loLimb (regValue Y s)])

/-- R70: `get` binds `name.hi` and `name.lo` to the limbs of A, B, Q or R, binds no other variable, and changes nothing of the
block; what it reads of an unwritten slot is what the hardware holds (log entry 2). -/
def Obligations.GetBindsRegisterLimbs : Prop :=
  ∀ (s : State) (vars : HostVars) (Y : Reg) (name : String),
    ∃ vars', performLines (Pseudo.get Y name).expand vars s =
        .next (vars', { s with returned := s.returned ++ [hiLimb (regValue Y s), loLimb (regValue Y s)] }) ∧
      vars'.lookup (name ++ ".hi") = some (hiLimb (regValue Y s)) ∧
      vars'.lookup (name ++ ".lo") = some (loLimb (regValue Y s)) ∧
      ∀ n, n ≠ name ++ ".hi" → n ≠ name ++ ".lo" → vars'.lookup n = vars.lookup n

/-- R70: `run` performs the command and binds its host variable to the STATUS that the command left, which is 1 for DIVREM with B
zero and 0 otherwise; the command runs past unwritten slots (log entry 2). -/
def Obligations.RunPerformsCommandAndBindsStatus : Prop :=
  ∀ (s : State) (vars : HostVars) (i : Instr) (st : String),
    ∃ vars' t, exec i s = .next t ∧
      performLines (Pseudo.run i st).expand vars s = .next (vars', { t with returned := s.returned ++ [t.status] }) ∧
      vars'.lookup st = some (if i = .divrem ∧ opB s = 0 then 1 else 0) ∧
      t.status = (if i = .divrem ∧ opB s = 0 then 1 else 0) ∧
      ∀ n, n ≠ st → vars'.lookup n = vars.lookup n
end

