-- ==== Sys2Proof/Laws/Decode.lean ====
section
/-! SUPPORT. What decoding a word and an offset can answer. -/

namespace Sys2Proof

/-- A word that decodes has RSV 0 and a row of the opcode map. -/
theorem decode_eq_ok {w : Word} {i : Instr} (h : decode w = .ok i) :
    rsvField w = 0 ∧ opcodeMap.lookup (opField w) = some i := by
  unfold decode at h
  split at h
  · cases h
  · next hr =>
    split at h
    · next j hj => exact ⟨Classical.not_not.mp hr, by cases h; exact hj⟩
    · cases h

/-- An admitted access: 8 bytes, at an offset whose low three bits are 0. -/
theorem accessSlot_eq_some {off : BitVec 7} {width : Nat} {S : Slot} (h : accessSlot off width = some S) :
    width = 8 ∧ off.extractLsb' 0 3 = 0 ∧ slotAt off = S := by
  unfold accessSlot at h
  split at h
  · next hc => exact ⟨hc.1, hc.2, by simpa using h⟩
  · cases h

/-- An admitted access to a data slot is at that slot's offset. -/
theorem offset_of_accessSlot {off : BitVec 7} {width : Nat} {d : DataSlot}
    (h : accessSlot off width = some (.data d)) : off = d.offset := by
  obtain ⟨-, hz, hs⟩ := accessSlot_eq_some h
  clear h
  revert hz hs
  revert off
  cases d <;> decide

/-- An admitted access to CMD is at offset 0x40. -/
theorem offset_of_accessSlot_cmd {off : BitVec 7} {width : Nat} (h : accessSlot off width = some .cmd) :
    off = cmdOffset := by
  obtain ⟨-, hz, hs⟩ := accessSlot_eq_some h
  clear h
  revert hz hs
  revert off
  decide

@[simp] theorem accessSlot_offset (d : DataSlot) : accessSlot d.offset 8 = some (.data d) := by cases d <;> rfl
@[simp] theorem accessSlot_cmdOffset : accessSlot 0x40#7 8 = some .cmd := rfl
@[simp] theorem accessSlot_statusOffset : accessSlot 0x48#7 8 = some .status := rfl

/-- The slots that 20_memory.md R46 lets the host read. -/
def readable : Option Slot → Bool
  | some (.data _) => true
  | some .status => true
  | some .cmd => false
  | some .reserved => false
  | none => false

/-- The slots that 20_memory.md R46 lets the host write. -/
def writable : Option Slot → Bool
  | some (.data d) => d.isOperand
  | some .cmd => true
  | some .status => false
  | some .reserved => false
  | none => false

/-- What the read table over offsets admits is what the slot decoder admits. -/
theorem read_wf_eq (off : BitVec 7) (width : Nat) :
    (HostAction.read off width).wf = readable (accessSlot off width) := by
  by_cases hw : width = 8
  · subst hw
    revert off
    decide
  · simp [HostAction.wf, widthOk, accessSlot, readable, hw]

/-- What the write table over offsets admits is what the slot decoder admits. -/
theorem write_wf_eq (off : BitVec 7) (width : Nat) (v : Word) :
    (HostAction.write off width v).wf = writable (accessSlot off width) := by
  have h8 : ∀ o : BitVec 7, (HostAction.write o 8 0).wf = writable (accessSlot o 8) := by decide
  by_cases hw : width = 8
  · subst hw
    exact h8 off
  · simp [HostAction.wf, widthOk, accessSlot, writable, hw]

end Sys2Proof
end

