-- ==== Sys2Proof/Laws/State.lean ====
section
/-! SUPPORT. The small lemmas of the state's updates: one per field that an operation leaves alone or sets, true by `rfl` or by
cases on the slot, so that no later proof unfolds a record update. -/

namespace Sys2Proof.Machine

section SetSlot
variable (d : DataSlot) (v : Word) (s : State)

@[simp] theorem setSlot_status : (setSlot d v s).status = s.status := by cases d <;> rfl
@[simp] theorem setSlot_pending : (setSlot d v s).pending = s.pending := by cases d <;> rfl
@[simp] theorem setSlot_returned : (setSlot d v s).returned = s.returned := by cases d <;> rfl

/-- Reading a slot after a write to a slot. -/
theorem getSlot_setSlot (e : DataSlot) : getSlot e (setSlot d v s) = if e = d then v else getSlot e s := by
  cases d <;> cases e <;> rfl

/-- A slot's mark after a write to a slot. -/
theorem isWritten_setSlot (e : DataSlot) :
    isWritten e (setSlot d v s) = if e = d then true else isWritten e s := by
  cases d <;> cases e <;> rfl

end SetSlot

section SetStatus
variable (v : Word) (s : State)

@[simp] theorem setStatus_aHi : (setStatus v s).aHi = s.aHi := rfl
@[simp] theorem setStatus_aLo : (setStatus v s).aLo = s.aLo := rfl
@[simp] theorem setStatus_bHi : (setStatus v s).bHi = s.bHi := rfl
@[simp] theorem setStatus_bLo : (setStatus v s).bLo = s.bLo := rfl
@[simp] theorem setStatus_qHi : (setStatus v s).qHi = s.qHi := rfl
@[simp] theorem setStatus_qLo : (setStatus v s).qLo = s.qLo := rfl
@[simp] theorem setStatus_rHi : (setStatus v s).rHi = s.rHi := rfl
@[simp] theorem setStatus_rLo : (setStatus v s).rLo = s.rLo := rfl
@[simp] theorem setStatus_status : (setStatus v s).status = v := rfl
@[simp] theorem setStatus_written : (setStatus v s).written = s.written := rfl
@[simp] theorem setStatus_pending : (setStatus v s).pending = s.pending := rfl
@[simp] theorem setStatus_returned : (setStatus v s).returned = s.returned := rfl
@[simp] theorem getSlot_setStatus (d : DataSlot) : getSlot d (setStatus v s) = getSlot d s := by cases d <;> rfl
@[simp] theorem isWritten_setStatus (d : DataSlot) : isWritten d (setStatus v s) = isWritten d s := by cases d <;> rfl

end SetStatus

section CompleteQ
variable (q : Int128) (s : State)

@[simp] theorem completeQ_aHi : (completeQ q s).aHi = s.aHi := rfl
@[simp] theorem completeQ_aLo : (completeQ q s).aLo = s.aLo := rfl
@[simp] theorem completeQ_bHi : (completeQ q s).bHi = s.bHi := rfl
@[simp] theorem completeQ_bLo : (completeQ q s).bLo = s.bLo := rfl
@[simp] theorem completeQ_qHi : (completeQ q s).qHi = q.extractLsb' 64 64 := rfl
@[simp] theorem completeQ_qLo : (completeQ q s).qLo = q.extractLsb' 0 64 := rfl
@[simp] theorem completeQ_rHi : (completeQ q s).rHi = s.rHi := rfl
@[simp] theorem completeQ_rLo : (completeQ q s).rLo = s.rLo := rfl
@[simp] theorem completeQ_status : (completeQ q s).status = 0 := rfl
@[simp] theorem completeQ_written :
    (completeQ q s).written = { s.written with qHi := true, qLo := true } := rfl
@[simp] theorem completeQ_pending : (completeQ q s).pending = s.pending := rfl
@[simp] theorem completeQ_returned : (completeQ q s).returned = s.returned := rfl

/-- Every slot after a command of one result. -/
theorem getSlot_completeQ (d : DataSlot) : getSlot d (completeQ q s) =
    if d = .qHi then q.extractLsb' 64 64 else if d = .qLo then q.extractLsb' 0 64 else getSlot d s := by
  cases d <;> rfl

/-- Every mark after a command of one result. -/
theorem isWritten_completeQ (d : DataSlot) : isWritten d (completeQ q s) =
    if d = .qHi ∨ d = .qLo then true else isWritten d s := by
  cases d <;> rfl

end CompleteQ

section CompleteQR
variable (q r : Int128) (s : State)

@[simp] theorem completeQR_aHi : (completeQR q r s).aHi = s.aHi := rfl
@[simp] theorem completeQR_aLo : (completeQR q r s).aLo = s.aLo := rfl
@[simp] theorem completeQR_bHi : (completeQR q r s).bHi = s.bHi := rfl
@[simp] theorem completeQR_bLo : (completeQR q r s).bLo = s.bLo := rfl
@[simp] theorem completeQR_qHi : (completeQR q r s).qHi = q.extractLsb' 64 64 := rfl
@[simp] theorem completeQR_qLo : (completeQR q r s).qLo = q.extractLsb' 0 64 := rfl
@[simp] theorem completeQR_rHi : (completeQR q r s).rHi = r.extractLsb' 64 64 := rfl
@[simp] theorem completeQR_rLo : (completeQR q r s).rLo = r.extractLsb' 0 64 := rfl
@[simp] theorem completeQR_status : (completeQR q r s).status = 0 := rfl
@[simp] theorem completeQR_written : (completeQR q r s).written =
    { s.written with qHi := true, qLo := true, rHi := true, rLo := true } := rfl
@[simp] theorem completeQR_pending : (completeQR q r s).pending = s.pending := rfl
@[simp] theorem completeQR_returned : (completeQR q r s).returned = s.returned := rfl

/-- Every slot after a DIVREM that completes. -/
theorem getSlot_completeQR (d : DataSlot) : getSlot d (completeQR q r s) =
    if d = .qHi then q.extractLsb' 64 64 else if d = .qLo then q.extractLsb' 0 64
    else if d = .rHi then r.extractLsb' 64 64 else if d = .rLo then r.extractLsb' 0 64 else getSlot d s := by
  cases d <;> rfl

/-- Every mark after a DIVREM that completes. -/
theorem isWritten_completeQR (d : DataSlot) : isWritten d (completeQR q r s) =
    if d = .qHi ∨ d = .qLo ∨ d = .rHi ∨ d = .rLo then true else isWritten d s := by
  cases d <;> rfl

end CompleteQR

section Raise
variable (e : Exception) (s : State)

@[simp] theorem raise_aHi : (raise e s).aHi = s.aHi := rfl
@[simp] theorem raise_aLo : (raise e s).aLo = s.aLo := rfl
@[simp] theorem raise_bHi : (raise e s).bHi = s.bHi := rfl
@[simp] theorem raise_bLo : (raise e s).bLo = s.bLo := rfl
@[simp] theorem raise_qHi : (raise e s).qHi = s.qHi := rfl
@[simp] theorem raise_qLo : (raise e s).qLo = s.qLo := rfl
@[simp] theorem raise_rHi : (raise e s).rHi = s.rHi := rfl
@[simp] theorem raise_rLo : (raise e s).rLo = s.rLo := rfl
@[simp] theorem raise_written : (raise e s).written = s.written := rfl
@[simp] theorem raise_pending : (raise e s).pending = s.pending := rfl
@[simp] theorem raise_returned : (raise e s).returned = s.returned := rfl
@[simp] theorem raise_dz_status : (raise .dz s).status = 1 := rfl
@[simp] theorem raise_ill_status : (raise .ill s).status = 2 := rfl
@[simp] theorem getSlot_raise (d : DataSlot) : getSlot d (raise e s) = getSlot d s := by cases d <;> rfl
@[simp] theorem isWritten_raise (d : DataSlot) : isWritten d (raise e s) = isWritten d s := by cases d <;> rfl

end Raise

section ReturnRead
variable (v : Word) (s : State)

@[simp] theorem returnRead_status : (returnRead v s).status = s.status := rfl
@[simp] theorem returnRead_written : (returnRead v s).written = s.written := rfl
@[simp] theorem returnRead_pending : (returnRead v s).pending = s.pending := rfl
@[simp] theorem returnRead_returned : (returnRead v s).returned = s.returned ++ [v] := rfl
@[simp] theorem getSlot_returnRead (d : DataSlot) : getSlot d (returnRead v s) = getSlot d s := by cases d <;> rfl
@[simp] theorem isWritten_returnRead (d : DataSlot) : isWritten d (returnRead v s) = isWritten d s := by
  cases d <;> rfl

end ReturnRead

section ApplyReset
variable (s : State)

@[simp] theorem applyReset_status : (applyReset s).status = 0 := rfl
@[simp] theorem applyReset_written : (applyReset s).written = Marks.none := rfl
@[simp] theorem applyReset_pending : (applyReset s).pending = s.pending := rfl
@[simp] theorem applyReset_returned : (applyReset s).returned = s.returned := rfl
@[simp] theorem isWritten_applyReset (d : DataSlot) : isWritten d (applyReset s) = false := by cases d <;> rfl

end ApplyReset

section TakePending
variable (l : List HostAction) (s : State)

@[simp] theorem getSlot_withPending (d : DataSlot) : getSlot d { s with pending := l } = getSlot d s := by
  cases d <;> rfl
@[simp] theorem isWritten_withPending (d : DataSlot) : isWritten d { s with pending := l } = isWritten d s := by
  cases d <;> rfl

end TakePending

end Sys2Proof.Machine
end

