-- ==== Sys2Proof/Laws/Operands.lean ====
section
/-! SUPPORT. Limbs and values: a value is its two limbs, and its unsigned and signed readings are those of 10_state.md R25. -/

namespace Sys2Proof.Machine

@[simp] theorem hiLimb_join (h l : Word) : hiLimb (join h l) = h := by
  apply BitVec.eq_of_toNat_eq
  simp only [hiLimb, join, BitVec.extractLsb'_toNat, BitVec.toNat_append, Nat.shiftRight_eq_div_pow]
  rw [← Nat.shiftLeft_add_eq_or_of_lt l.isLt, Nat.shiftLeft_eq]
  have := h.isLt
  have := l.isLt
  omega

@[simp] theorem loLimb_join (h l : Word) : loLimb (join h l) = l := by
  apply BitVec.eq_of_toNat_eq
  simp only [loLimb, join, BitVec.extractLsb'_toNat, BitVec.toNat_append, Nat.shiftRight_zero]
  rw [← Nat.shiftLeft_add_eq_or_of_lt l.isLt, Nat.shiftLeft_eq]
  have := l.isLt
  omega

/-- `u({h, l}) = u(h)*2^64 + u(l)` (10_state.md R25). -/
theorem toNat_join (h l : Word) : (join h l).toNat = unsignedValue h l := by
  simp only [join, unsignedValue, BitVec.toNat_append]
  rw [← Nat.shiftLeft_add_eq_or_of_lt l.isLt, Nat.shiftLeft_eq]

theorem hiLimb_toNat (v : Int128) : (hiLimb v).toNat = v.toNat / 2 ^ 64 := by
  have := v.isLt
  simp only [hiLimb, BitVec.extractLsb'_toNat, Nat.shiftRight_eq_div_pow]
  omega

theorem loLimb_toNat (v : Int128) : (loLimb v).toNat = v.toNat % 2 ^ 64 := by
  simp [loLimb, BitVec.extractLsb'_toNat]

/-- A value is the pair of its limbs. -/
@[simp] theorem join_limbs (v : Int128) : join (hiLimb v) (loLimb v) = v := by
  apply BitVec.eq_of_toNat_eq
  rw [toNat_join, unsignedValue, hiLimb_toNat, loLimb_toNat]
  omega

/-- `s({h, l}) = s(h)*2^64 + u(l)` (10_state.md R25). -/
theorem toInt_join (h l : Word) : (join h l).toInt = signedValue h l := by
  have := h.isLt
  have := l.isLt
  simp only [signedValue, BitVec.toInt_eq_toNat_cond, toNat_join, unsignedValue]
  split <;> split <;> push_cast <;> omega

theorem opA_toNat (s : State) : (opA s).toNat = uA s := toNat_join _ _
theorem opB_toNat (s : State) : (opB s).toNat = uB s := toNat_join _ _
theorem opA_toInt (s : State) : (opA s).toInt = sA s := toInt_join _ _
theorem opB_toInt (s : State) : (opB s).toInt = sB s := toInt_join _ _

@[simp] theorem opA_withPending (l : List HostAction) (s : State) : opA { s with pending := l } = opA s := rfl
@[simp] theorem opB_withPending (l : List HostAction) (s : State) : opB { s with pending := l } = opB s := rfl
@[simp] theorem opA_completeQ (q : Int128) (s : State) : opA (completeQ q s) = opA s := rfl
@[simp] theorem opB_completeQ (q : Int128) (s : State) : opB (completeQ q s) = opB s := rfl
@[simp] theorem opA_completeQR (q r : Int128) (s : State) : opA (completeQR q r s) = opA s := rfl
@[simp] theorem opB_completeQR (q r : Int128) (s : State) : opB (completeQR q r s) = opB s := rfl
@[simp] theorem opA_raise (e : Exception) (s : State) : opA (raise e s) = opA s := rfl
@[simp] theorem opB_raise (e : Exception) (s : State) : opB (raise e s) = opB s := rfl

/-- B is zero when both limbs are (42_divider.md R121). -/
theorem opB_eq_zero_iff (s : State) : opB s = 0 ↔ s.bHi = 0 ∧ s.bLo = 0 := by
  constructor
  · intro h
    have hh : hiLimb (opB s) = 0 := by rw [h]; rfl
    have hl : loLimb (opB s) = 0 := by rw [h]; rfl
    exact ⟨by simpa [opB] using hh, by simpa [opB] using hl⟩
  · rintro ⟨hh, hl⟩
    simp only [opB, hh, hl]
    rfl

/-- Writing the same Q again changes nothing. -/
@[simp] theorem completeQ_completeQ (q : Int128) (s : State) : completeQ q (completeQ q s) = completeQ q s := by
  simp only [completeQ, setStatus, setQ, setSlot]

/-- Writing the same Q and R again changes nothing. -/
@[simp] theorem completeQR_completeQR (q r : Int128) (s : State) :
    completeQR q r (completeQR q r s) = completeQR q r s := by
  simp only [completeQR, setStatus, setR, setQ, setSlot]

/-- Completing a command of one result writes Q, STATUS and the marks of Q, and nothing else. -/
theorem completeQ_wroteQ (q : Int128) (s : State) : WroteQ q s (completeQ q s) := rfl

/-- Completing a DIVREM writes Q, R, STATUS and their marks, and nothing else. -/
theorem completeQR_wroteQR (q r : Int128) (s : State) : WroteQR q r s (completeQR q r s) := rfl

/-- The value of Q after a command of one result. -/
@[simp] theorem resQ_completeQ (q : Int128) (s : State) : resQ (completeQ q s) = q := join_limbs q
@[simp] theorem resQ_completeQR (q r : Int128) (s : State) : resQ (completeQR q r s) = q := join_limbs q
@[simp] theorem resR_completeQR (q r : Int128) (s : State) : resR (completeQR q r s) = r := join_limbs r

end Sys2Proof.Machine
end

