-- ==== Sys2Proof/Laws/Exec.lean ====
section
/-! SUPPORT. What a command can do, said once: it completes with one result, DIVREM completes with two, or DIVREM by zero raises
DZ. Nothing else. -/

namespace Sys2Proof.Machine

/-- The primary result of a command on operands A and B: what it writes to Q when it completes (10_state.md R23). -/
def primaryResult (i : Instr) (a b : Int128) : Int128 :=
  match i with
  | .add => add128 a b
  | .sub => sub128 a b
  | .neg => neg128 a
  | .abs => abs128 a
  | .inc => add128 a one128
  | .dec => sub128 a one128
  | .sgn => ofOrder (isNeg a) (a == 0)
  | .isz => ofTruth (a == 0)
  | .isn => ofTruth (isNeg a)
  | .isp => ofTruth (!isNeg a && a != 0)
  | .cmp => ofOrder (a.slt b) (a == b)
  | .cmpu => ofOrder (a.ult b) (a == b)
  | .mulu64 => mulU64 (loLimb a) (loLimb b)
  | .mul => mul128 a b
  | .divrem => (divRem a b).1

/-- Every command but DIVREM completes, with its one result. -/
theorem exec_of_ne_divrem {i : Instr} (h : i ≠ .divrem) (s : State) :
    exec i s = .next (completeQ (primaryResult i (opA s) (opB s)) s) := by
  cases i
  case divrem => exact absurd rfl h
  case mulu64 => simp [exec, execMulu64, primaryResult, opA, opB]
  all_goals rfl

/-- DIVREM on a nonzero divisor completes with both results. -/
theorem exec_divrem_of_ne_zero {s : State} (h : opB s ≠ 0) :
    exec .divrem s = .next (completeQR (divRem (opA s) (opB s)).1 (divRem (opA s) (opB s)).2 s) := by
  simp only [exec, execDivrem, if_neg h]

/-- DIVREM by zero raises DZ. -/
theorem exec_divrem_of_eq_zero {s : State} (h : opB s = 0) : exec .divrem s = .next (raise .dz s) := by
  simp only [exec, execDivrem, if_pos h]

/-- The three things a command can do. -/
theorem exec_cases (i : Instr) (s : State) :
    (i ≠ .divrem ∧ exec i s = .next (completeQ (primaryResult i (opA s) (opB s)) s)) ∨
    (i = .divrem ∧ opB s ≠ 0 ∧
      exec i s = .next (completeQR (divRem (opA s) (opB s)).1 (divRem (opA s) (opB s)).2 s)) ∨
    (i = .divrem ∧ opB s = 0 ∧ exec i s = .next (raise .dz s)) := by
  by_cases hi : i = .divrem
  · subst hi
    by_cases hb : opB s = 0
    · exact .inr (.inr ⟨rfl, hb, exec_divrem_of_eq_zero hb⟩)
    · exact .inr (.inl ⟨rfl, hb, exec_divrem_of_ne_zero hb⟩)
  · exact .inl ⟨hi, exec_of_ne_divrem hi s⟩

end Sys2Proof.Machine
end

