-- ==== Sys2Proof/Laws/HostNotation.lean ====
section
/-! SUPPORT. What each line of the host notation does, and what two writes do to a register (30_encoding.md R69, R70). -/

namespace Sys2Proof.Machine

/-- A line that completes hands its variables and its state to the next line. -/
theorem performLines_cons_of_next {l : Line} {rest : List Line} {vars vars' : HostVars} {s t : State}
    (h : performLine l vars s = .next (vars', t)) : performLines (l :: rest) vars s = performLines rest vars' t := by
  simp only [performLines, h]

/-- `wr` of an operand slot sets it. -/
theorem performLine_wr {d : DataSlot} {v : Source} {w : Word} {vars : HostVars} (s : State)
    (hd : d.isOperand = true) (hv : v.value vars = some w) :
    performLine (.wr d v) vars s = .next (vars, setSlot d w s) := by
  simp [performLine, Line.action, hd, hv, transact, Line.bind]

/-- `rd` of a data slot returns it and binds the variable. -/
theorem performLine_rd_data (d : DataSlot) (name : String) (vars : HostVars) (s : State) :
    performLine (.rd (.data d) name) vars s = .next ((name, getSlot d s) :: vars, returnRead (getSlot d s) s) := by
  simp [performLine, Line.action, transact, Line.bind, readValue, slotValue]

/-- `rd STATUS` returns it and binds the variable. -/
theorem performLine_rd_status (name : String) (vars : HostVars) (s : State) :
    performLine (.rd .status name) vars s = .next ((name, s.status) :: vars, returnRead s.status s) := by
  simp [performLine, Line.action, transact, Line.bind, readValue, slotValue, statusOffset]

/-- A line that stands for no transaction leaves the block alone. -/
theorem performLine_of_no_action {l : Line} {vars : HostVars} (h : l.action vars = none) (s : State) :
    performLine l vars s = .next (l.bind none vars, s) := by
  simp only [performLine, h]

/-- The operand registers have operand slots (20_memory.md R46). -/
theorem isOperand_slots {X : Reg} (h : X.isOperand = true) : X.hiSlot.isOperand = true ∧ X.loSlot.isOperand = true := by
  cases X <;> first | exact ⟨rfl, rfl⟩ | cases h

/-- A register is its two slots. -/
theorem regValue_eq (X : Reg) (s : State) : regValue X s = join (getSlot X.hiSlot s) (getSlot X.loSlot s) := by
  cases X <;> rfl

@[simp] theorem hiLimb_regValue (X : Reg) (s : State) : hiLimb (regValue X s) = getSlot X.hiSlot s := by
  rw [regValue_eq, hiLimb_join]

@[simp] theorem loLimb_regValue (X : Reg) (s : State) : loLimb (regValue X s) = getSlot X.loSlot s := by
  rw [regValue_eq, loLimb_join]

@[simp] theorem regValue_returnRead (X : Reg) (v : Word) (s : State) : regValue X (returnRead v s) = regValue X s := by
  cases X <;> rfl

/-- Writing both slots of a register writes the register and nothing else. -/
theorem wroteReg_setSlots (X : Reg) (v : Int128) (s : State) :
    WroteReg X v s (setSlot X.loSlot (loLimb v) (setSlot X.hiSlot (hiLimb v) s)) := by
  refine ⟨?_, ?_, ?_, ?_, ?_, ?_, ?_⟩
  · cases X <;> exact join_limbs v
  · cases X <;> rfl
  · cases X <;> rfl
  · intro Z hZ
    cases X <;> cases Z <;> first | exact absurd rfl hZ | rfl
  · intro d hh hl
    simp only [isWritten_setSlot, if_neg hh, if_neg hl]
  · simp
  · simp

end Sys2Proof.Machine
end

