-- ==== Sys2Proof/Laws/PerInstr.lean ====
section
/-! SUPPORT. The family RoundTrip: one lemma per command. A command is well-formed, its word has RSV 0, and decoding its word
gives it back (30_encoding.md R62 to R64). -/

namespace Sys2Proof.Laws.RoundTrip

/-- What is said of each command. -/
def Statement (i : Instr) : Prop :=
  i.wf = true ∧ rsvField (encode i) = 0 ∧ opField (encode i) = opOf i ∧ decode (encode i) = .ok i

theorem add : Statement .add := ⟨rfl, rfl, rfl, rfl⟩
theorem sub : Statement .sub := ⟨rfl, rfl, rfl, rfl⟩
theorem neg : Statement .neg := ⟨rfl, rfl, rfl, rfl⟩
theorem abs : Statement .abs := ⟨rfl, rfl, rfl, rfl⟩
theorem inc : Statement .inc := ⟨rfl, rfl, rfl, rfl⟩
theorem dec : Statement .dec := ⟨rfl, rfl, rfl, rfl⟩
theorem sgn : Statement .sgn := ⟨rfl, rfl, rfl, rfl⟩
theorem isz : Statement .isz := ⟨rfl, rfl, rfl, rfl⟩
theorem isn : Statement .isn := ⟨rfl, rfl, rfl, rfl⟩
theorem isp : Statement .isp := ⟨rfl, rfl, rfl, rfl⟩
theorem cmp : Statement .cmp := ⟨rfl, rfl, rfl, rfl⟩
theorem cmpu : Statement .cmpu := ⟨rfl, rfl, rfl, rfl⟩
theorem mulu64 : Statement .mulu64 := ⟨rfl, rfl, rfl, rfl⟩
theorem mul : Statement .mul := ⟨rfl, rfl, rfl, rfl⟩
theorem divrem : Statement .divrem := ⟨rfl, rfl, rfl, rfl⟩

end Sys2Proof.Laws.RoundTrip
end

