-- ==== Sys2Proof/Laws/Run.lean ====
section
/-! SUPPORT. Runs, one strict step at a time, and what a run's result rests on (70_reset_and_hazards.md R177). -/

namespace Sys2Proof.Machine

/-- A strict step that reads no unwritten slot is the step; any other is the fault UNWRITTEN (10_state.md R36). -/
theorem strictStep_cases (s : State) :
    (readsUnwritten s = true ∧ strictStep s = .fault .unwritten) ∨ (readsUnwritten s = false ∧ strictStep s = step s) := by
  cases h : readsUnwritten s
  · exact .inr ⟨rfl, by simp [strictStep, h]⟩
  · exact .inl ⟨rfl, by simp [strictStep, h]⟩

section OneStep
variable {s t : State} {f : Fault} (k : Nat)

/-- A run whose first step answers a state goes on from it, in what it answers and in what it reaches alike. -/
theorem strictRun_succ_of_next (h : strictStep s = .next t) : strictRun (k + 1) s = strictRun k t := by
  simp only [strictRun, h]

theorem strictReach_succ_of_next (h : strictStep s = .next t) : strictReach (k + 1) s = strictReach k t := by
  simp only [strictReach, h]

/-- A run whose first step faults ends where it began. -/
theorem strictRun_succ_of_fault (h : strictStep s = .fault f) : strictRun (k + 1) s = .fault f := by
  simp only [strictRun, h]

theorem strictReach_succ_of_fault (h : strictStep s = .fault f) : strictReach (k + 1) s = s := by
  simp only [strictReach, h]

end OneStep

/-- What a slot shows tells its mark, and its value where the mark is set. -/
theorem shownSlot_eq_some {d : DataSlot} {t : State} {v : Word} :
    shownSlot d t = some v ↔ isWritten d t = true ∧ getSlot d t = v := by
  simp [shownSlot]

theorem shownSlot_eq_none {d : DataSlot} {t : State} : shownSlot d t = none ↔ isWritten d t = false := by
  simp [shownSlot]

/-- The observable result rests on the written slots alone (log entry 20). -/
theorem observable_eq_of_agree {s t : State} (h : AgreeOnWritten s t) : observable s = observable t := by
  obtain ⟨hs, hw, -, hr, hv⟩ := h
  have hm : ∀ d, isWritten d s = isWritten d t := fun d => by cases d <;> simp only [isWritten, hw]
  have hd : ∀ d, shownSlot d s = shownSlot d t := fun d => by
    cases h : isWritten d s
    · simp [shownSlot, ← hm, h]
    · simp [shownSlot, ← hm, h, hv d h]
  simp only [observable, hs, hr, hd]

end Sys2Proof.Machine
end

