-- ==== Sys2Proof/Laws/Step.lean ====
section
/-! SUPPORT. What one step can do, said once: every later proof about a step cites this case list. -/

namespace Sys2Proof.Machine

/-- The kinds of thing that an action which answers a state has done. -/
theorem transact_cases {a : HostAction} {s t : State} (h : transact a s = .next t) :
    (∃ d, a = .read d.offset 8 ∧ t = returnRead (getSlot d s) s) ∨
    (∃ off, a = .read off 8 ∧ accessSlot off 8 = some .status ∧ t = returnRead s.status s) ∨
    (∃ d v, d.isOperand = true ∧ a = .write d.offset 8 v ∧ t = setSlot d v s) ∨
    (∃ w i, a = .write cmdOffset 8 w ∧ decode w = .ok i ∧ exec i s = .next t) ∨
    (∃ w e, a = .write cmdOffset 8 w ∧ decode w = .error e ∧ t = raise .ill s) ∨
    (a = .reset ∧ t = applyReset s) := by
  cases a with
  | read off width =>
    simp only [transact] at h
    split at h
    · next d hd =>
      obtain ⟨rfl, -, -⟩ := accessSlot_eq_some hd
      cases offset_of_accessSlot hd
      cases h
      exact .inl ⟨d, rfl, rfl⟩
    · next hs =>
      obtain ⟨rfl, -, -⟩ := accessSlot_eq_some hs
      cases h
      exact .inr (.inl ⟨off, rfl, hs, rfl⟩)
    all_goals cases h
  | write off width v =>
    simp only [transact] at h
    split at h
    · next d hd =>
      split at h
      · next ho =>
        obtain ⟨rfl, -, -⟩ := accessSlot_eq_some hd
        cases offset_of_accessSlot hd
        cases h
        exact .inr (.inr (.inl ⟨d, v, ho, rfl, rfl⟩))
      · cases h
    · next hc =>
      obtain ⟨rfl, -, -⟩ := accessSlot_eq_some hc
      cases offset_of_accessSlot_cmd hc
      simp only [runCommand] at h
      split at h
      · next i hi => exact .inr (.inr (.inr (.inl ⟨v, i, rfl, hi, h⟩)))
      · next e he =>
        cases h
        exact .inr (.inr (.inr (.inr (.inl ⟨v, e, rfl, he, rfl⟩))))
    all_goals cases h
  | reset =>
    cases h
    exact .inr (.inr (.inr (.inr (.inr ⟨rfl, rfl⟩))))

/-- A step with an action pending performs it, the action taken off the queue. -/
theorem step_of_pending {s : State} {a : HostAction} {rest : List HostAction} (h : s.pending = a :: rest) :
    step s = transact a { s with pending := rest } := by
  simp [step, h]

/-- A step with nothing pending keeps the state (log entry 3). -/
theorem step_of_idle {s : State} (h : s.pending = []) : step s = .next s := by
  simp [step, h]

/-- No command faults or is refused: an illegal word and a legal one alike answer a state (60_exceptions.md R156). -/
theorem runCommand_next (w : Word) (s : State) : ∃ t, runCommand w s = .next t := by
  unfold runCommand
  split
  · next i _ =>
    obtain ⟨-, h⟩ | ⟨-, -, h⟩ | ⟨-, -, h⟩ := exec_cases i s <;> exact ⟨_, h⟩
  · exact ⟨_, rfl⟩

end Sys2Proof.Machine
end

