-- ==== Sys2Proof/Tests/Slice0.lean ====
section
/-! SUPPORT. Tests, each expected value from spec/ (the vector or rule is named), and for every obligation that has hypotheses a
witness that they can be met together. -/

namespace Sys2Proof.Tests

open Sys2Proof.Machine

/-! ### Well-formedness: each check refuses an ill-formed access -/

/-- R45: 4-byte read of STATUS (EV-13). -/
theorem test_wf_refuses_width : (HostAction.read 0x48 4).wf = false := by decide
/-- R45: 8-byte write at offset 4 (EV-14). -/
theorem test_wf_refuses_misaligned : (HostAction.write 0x04 8 0).wf = false := by decide
/-- R47: reserved slots (EV-18). -/
theorem test_wf_refuses_reserved :
    (HostAction.read 0x50 8).wf = false ∧ (HostAction.write 0x78 8 0).wf = false := by decide
/-- R46: reads of CMD (EV-17). -/
theorem test_wf_refuses_read_direction : (HostAction.read 0x40 8).wf = false := by decide
/-- R46: writes of Q_HI and STATUS (EV-15, EV-16). -/
theorem test_wf_refuses_write_direction :
    (HostAction.write 0x20 8 1).wf = false ∧ (HostAction.write 0x48 8 0).wf = false := by decide
/-- R46: what the table allows. -/
theorem test_wf_admits :
    (HostAction.read 0x38 8).wf = true ∧ (HostAction.write 0x18 8 0).wf = true ∧
      (HostAction.write 0x40 8 0).wf = true := by decide

/-! ### Decoding: each row of the opcode map, written out (30_encoding.md R64, opcode_table.json) -/

theorem test_decode_add : decode (0b00000001#64) = .ok .add := by decide
theorem test_decode_sub : decode (0b00000010#64) = .ok .sub := by decide
theorem test_decode_neg : decode (0b00000011#64) = .ok .neg := by decide
theorem test_decode_abs : decode (0b00000100#64) = .ok .abs := by decide
theorem test_decode_inc : decode (0b00000101#64) = .ok .inc := by decide
theorem test_decode_dec : decode (0b00000110#64) = .ok .dec := by decide
theorem test_decode_sgn : decode (0b00000111#64) = .ok .sgn := by decide
theorem test_decode_isz : decode (0b00001000#64) = .ok .isz := by decide
theorem test_decode_isn : decode (0b00001001#64) = .ok .isn := by decide
theorem test_decode_isp : decode (0b00001010#64) = .ok .isp := by decide
theorem test_decode_cmp : decode (0b00001011#64) = .ok .cmp := by decide
theorem test_decode_cmpu : decode (0b00001100#64) = .ok .cmpu := by decide
theorem test_decode_mulu64 : decode (0b00010000#64) = .ok .mulu64 := by decide
theorem test_decode_mul : decode (0b00010001#64) = .ok .mul := by decide
theorem test_decode_divrem : decode (0b00100000#64) = .ok .divrem := by decide

/-- R65, EV-4 to EV-6: zero, RSV not zero, unassigned OP. -/
theorem test_decode_illegal :
    decode 0x0 = .error (.unassignedOp 0) ∧ decode 0x101 = .error .reservedBits ∧
      decode 0x0D = .error (.unassignedOp 0x0D) ∧ decode 0xFF = .error (.unassignedOp 0xFF) := by decide
/-- R43, R64: the bytes of the DIVREM word, most significant first. -/
theorem test_decode_bytes : decodeBytes [0, 0, 0, 0, 0, 0, 0, 0x20] = .ok .divrem := by decide
/-- R60: no other length is a command word. -/
theorem test_decode_short : decodeBytes [0, 0, 0, 0x20] = .error .notOneWord := by decide
/-- The host's table word: the MUL row, and the same byte at the other end of the word. -/
theorem test_decode_table : decodeTableWord 64 0x11 = some .mul ∧ decodeTableWord 64 0x1100000000000000 = none := by decide

/-! ### Commands (95_test_vectors.md) -/

/-- A state with operands A and B, everything else as after reset but STATUS 2 and R 9, so that a test can see them change. -/
def st (a b : Int128) : State :=
  { State.reset with aHi := hiLimb a, aLo := loLimb a, bHi := hiLimb b, bLo := loLimb b, status := 2, rLo := 9 }

/-- A state with the whole of A and B written. -/
def stWritten (a b : Int128) : State :=
  { st a b with written := ⟨true, true, true, true, false, false, false, false⟩ }

/-- Q, R and STATUS after one command. -/
def after (i : Instr) (a b : Int128) : Option (Int128 × Int128 × Word) :=
  match step ((st a b).withFetchWord 64 (encode i).toNat) with
  | .next t => some (resQ t, resR t, t.status)
  | .fault _ => none
  | .refused _ => none

/-- AV-1. -/
theorem test_add_carry : after .add 0xFFFFFFFFFFFFFFFF 1 = some (0x10000000000000000, 9, 0) := by decide
/-- AV-5. -/
theorem test_add_limbs : after .add 0x10000000000000002 0x3FFFFFFFFFFFFFFFF = some (0x50000000000000001, 9, 0) := by decide
/-- AV-6. -/
theorem test_sub_borrow : after .sub 0x10000000000000000 1 = some (0xFFFFFFFFFFFFFFFF, 9, 0) := by decide
/-- AV-9. -/
theorem test_sub_order : after .sub 5 7 = some (0xFFFFFFFFFFFFFFFFFFFFFFFFFFFFFFFE, 9, 0) := by decide
/-- AV-12. -/
theorem test_neg_min : after .neg minValue 0 = some (minValue, 9, 0) := by decide
/-- AV-15. -/
theorem test_neg_carry : after .neg 0x10000000000000000 0 = some (0xFFFFFFFFFFFFFFFF0000000000000000, 9, 0) := by decide
/-- AV-16. -/
theorem test_abs_negative : after .abs 0xFFFFFFFFFFFFFFFFFFFFFFFFFFFFFFFB 0 = some (5, 9, 0) := by decide
/-- AV-19. -/
theorem test_abs_max : after .abs maxValue 0 = some (maxValue, 9, 0) := by decide
/-- AV-21. -/
theorem test_inc_wraps : after .inc maxValue 0 = some (minValue, 9, 0) := by decide
/-- AV-25. -/
theorem test_dec_wraps : after .dec minValue 0 = some (maxValue, 9, 0) := by decide
/-- AV-26. -/
theorem test_sgn_min : after .sgn minValue 0 = some (0xFFFFFFFFFFFFFFFFFFFFFFFFFFFFFFFF, 9, 0) := by decide
/-- AV-28. -/
theorem test_sgn_positive : after .sgn 0x10000000000000000 0 = some (1, 9, 0) := by decide
/-- AV-30. -/
theorem test_isz_high_limb : after .isz 0x10000000000000000 0 = some (0, 9, 0) := by decide
/-- AV-29. -/
theorem test_isz_zero : after .isz 0 7 = some (1, 9, 0) := by decide
/-- AV-31. -/
theorem test_isn_min : after .isn minValue 0 = some (1, 9, 0) := by decide
/-- AV-34. -/
theorem test_isp_zero : after .isp 0 7 = some (0, 9, 0) := by decide
/-- AV-35. -/
theorem test_isp_max : after .isp maxValue 0 = some (1, 9, 0) := by decide
/-- AV-37. -/
theorem test_cmp_min_max :
    after .cmp minValue maxValue = some (0xFFFFFFFFFFFFFFFFFFFFFFFFFFFFFFFF, 9, 0) := by decide
/-- AV-40. -/
theorem test_cmp_high_limb : after .cmp 0x10000000000000000 0xFFFFFFFFFFFFFFFF = some (1, 9, 0) := by decide
/-- AV-42. -/
theorem test_cmpu_min_max : after .cmpu minValue maxValue = some (1, 9, 0) := by decide
/-- AV-44. -/
theorem test_cmpu_less : after .cmpu 0 minValue = some (0xFFFFFFFFFFFFFFFFFFFFFFFFFFFFFFFF, 9, 0) := by decide
/-- MV-5, with high limbs that must not matter (41_multiplier.md R112). -/
theorem test_mulu64_cross_products : after .mulu64 0xAAAA123456789ABCDEF0 0xBBBB0FEDCBA987654321 =
    some (0x0121FA00AD77D7422236D88FE5618CF0, 9, 0) := by decide +kernel
/-- MV-1. -/
theorem test_mulu64_largest : after .mulu64 0xFFFFFFFFFFFFFFFF 0xFFFFFFFFFFFFFFFF =
    some (0xFFFFFFFFFFFFFFFE0000000000000001, 9, 0) := by decide +kernel
/-- MV-7. -/
theorem test_mul_example : after .mul 0x10000000000000002 0x30000000000000004 =
    some (0xA0000000000000008, 9, 0) := by decide +kernel
/-- MV-15. -/
theorem test_mul_all_limbs : after .mul 0x123456789ABCDEF0FEDCBA9876543210 0x0F0F0F0F0F0F0F0F1111111111111111 =
    some (0x88509047761C39CFEF0259F5D5FA6310, 9, 0) := by decide +kernel
/-- DV-F12: the running remainder passes 2^64. -/
theorem test_divrem_fast_wide_remainder : after .divrem 0x7FFFFFFFFFFFFFFF0000000000000000 0xFFFFFFFFFFFFFFFF =
    some (0x7FFFFFFFFFFFFFFF, 0x7FFFFFFFFFFFFFFF, 0) := by decide +kernel
/-- DV-G3: the guard of 42_divider.md R131. -/
theorem test_divrem_guard : after .divrem minValue 0x3FFFFFFFFFFFFFFE1 =
    some (0xFFFFFFFFFFFFFFFFE000000000000000, 0xFFFFFFFFFFFFFFFC2000000000000000, 0) := by decide +kernel
/-- DV-M1. -/
theorem test_divrem_min_by_minus_one : divRem minValue 0xFFFFFFFFFFFFFFFFFFFFFFFFFFFFFFFF = (minValue, 0) := by
  decide +kernel
/-- DV-G2, the trace: s, d1, d0, n2, n1, n0 of 42_divider.md R128. -/
theorem test_normalize_trace : normalize 0x3FFFFFFFFFFFFFFF9 0x1FFFFFFFFFFFFFFFD =
    { shift := 63, bn := 0xFFFFFFFFFFFFFFFE8000000000000000, d1 := 0xFFFFFFFFFFFFFFFE, d0 := 0x8000000000000000
      n2 := 1, n1 := 0xFFFFFFFFFFFFFFFC, n0 := 0x8000000000000000 } := by decide +kernel
/-- DV-G4, the trace: qHat = 0xF and rHat = 2^64 + 1 when the guard stops the loop. -/
theorem test_refine_trace : refinedTrial (normalize 0x1FFFFFFFFFFFFFFFE4 0x1FFFFFFFFFFFFFFFF) =
    { qHat := 0xF, rHat := 0x10000000000000001 } := by decide +kernel

/-! ### Exceptions and accesses (95_test_vectors.md, section 5) -/

/-- What a step answers, as a value a test can compare. -/
inductive Answer where
  | state (t : State)
  | fault (f : Fault)
  | refused (r : Refusal)
  deriving DecidableEq

/-- The answer of an outcome. -/
def answer : Host.Outcome State Fault Refusal → Answer
  | .next t => .state t
  | .fault f => .fault f
  | .refused r => .refused r

/-- EV-1: DZ writes STATUS alone. -/
theorem test_dz_writes_status_alone : answer (exec .divrem (st 7 0)) = .state { st 7 0 with status := 1 } := by decide
/-- EV-2: B_LO = 0 but B not zero. -/
theorem test_divrem_quick_exit : after .divrem 7 0x10000000000000000 = some (0, 7, 0) := by decide +kernel
/-- EV-7: ILL right after reset, in the strict reading too. -/
theorem test_ill_before_unwritten :
    answer (strictStep (State.reset.withFetchWord 64 0xFF)) = .state { State.reset with status := 2 } := by decide
/-- EV-8: DIVREM with nothing written. -/
theorem test_unwritten_fault : answer (strictStep (State.reset.withFetchWord 64 0x20)) = .fault .unwritten := by decide
/-- EV-9: only B = 0 written: not DZ. -/
theorem test_unwritten_before_dz : answer (strictStep (({ State.reset with written :=
    { Marks.none with bHi := true, bLo := true } } : State).withFetchWord 64 0x20)) = .fault .unwritten := by decide
/-- EV-10: STATUS reads 0 after reset. -/
theorem test_status_after_reset : answer (step { State.reset with pending := [.read 0x48 8] }) =
    .state { State.reset with returned := [0] } := by decide
/-- EV-13. -/
theorem test_access_error_width :
    answer (step { State.reset with pending := [.read 0x48 4] }) = .fault .accessError := by decide
/-- EV-19. -/
theorem test_access_error_wide_write :
    answer (step { State.reset with pending := [.write 0x00 16 5] }) = .fault .accessError := by decide
/-- S10: the bytes of A in the window. -/
theorem test_window_bytes : (windowByte 0x00 (st 0x0102030405060708090A0B0C0D0E0F10 0),
    windowByte 0x07 (st 0x0102030405060708090A0B0C0D0E0F10 0),
    windowByte 0x08 (st 0x0102030405060708090A0B0C0D0E0F10 0),
    windowByte 0x0F (st 0x0102030405060708090A0B0C0D0E0F10 0)) = (some 0x01, some 0x08, some 0x09, some 0x10) := by decide
/-- R71: the rule's own examples. -/
theorem test_disassemble : disassemble 0x20 = "cmd DIVREM" ∧
    disassemble 0x0000000100000001 = "cmd.raw 0x0000000100000001" := by decide +kernel
/-- R70: `ld A, -1234` is `ld A, 0xFFFFFFFFFFFFFFFFFFFFFFFFFFFFFB2E`. -/
theorem test_signed_imm : signedImm 128 (-1234) = 0xFFFFFFFFFFFFFFFFFFFFFFFFFFFFFB2E := by decide
/-- R70: the expansion of `ldu`. -/
theorem test_ldu_expand : (Pseudo.ldu .B 1).expand.map (Line.action []) =
    [some (.write 0x10 8 0), some (.write 0x18 8 1)] := by decide

/-- R70: the expansion of `mov`, whose variables the reads have bound; and a `wr` of Q_HI, outside R69, is nothing (log entry 17). -/
theorem test_mov_expand : (Pseudo.mov .A .Q).expand.map (Line.action [("t0", 2), ("t1", 1)]) =
    [some (.read 0x20 8), some (.read 0x28 8), some (.write 0x00 8 1), some (.write 0x08 8 2)] ∧
    Line.action [] (.wr .qHi (.imm 1)) = none := by decide

/-- R70 gives `mov B, A` no meaning: the model copies (log entry 17). -/
theorem test_mov_from_operand : (Pseudo.mov .B .A).wf = false ∧
    (Pseudo.mov .B .A).expand.map (Line.action [("t0", 2), ("t1", 1)]) =
      [some (.read 0x00 8), some (.read 0x08 8), some (.write 0x10 8 1), some (.write 0x18 8 2)] := by decide

/-! ### Runs (70_reset_and_hazards.md R177) -/

/-- EV-19: the run faults on its second access; the first one's write still shows, every other slot as never written. -/
theorem test_run_access_error : run [.write 0x00 8 7, .write 0x00 16 5, .read 0x00 8] =
    { kind := .faultedByAccessError
      result := { returned := [], slots := [some 7, none, none, none, none, none, none, none], status := 0 } } := by decide
/-- EV-10, EV-8: STATUS is read as 0, then a DIVREM on unwritten operands ends the run, and the value read is kept. -/
theorem test_run_unwritten : run [.read 0x48 8, .write 0x40 8 0x20] =
    { kind := .faultedByUnwritten, result := { returned := [0], slots := List.replicate 8 none, status := 0 } } := by decide
/-- EV-7: ILL is an ordinary end with STATUS set. -/
theorem test_run_exception : run [.write 0x40 8 0xFF, .read 0x48 8] =
    { kind := .exceptionRecorded false true
      result := { returned := [2], slots := List.replicate 8 none, status := 2 } } := by decide

/-! ### Witnesses: the hypotheses of each statement can be met together -/

theorem witness_StepRunsDecodedCommand :
    decode 0x01 = .ok .add ∧ ((st 1 2).withFetchWord 64 1).pending = .write 0x40 8 0x01 :: [] := by decide

/-- Every clause at the ends of its range. -/
theorem witness_IllegalWordRaisesIllOnly :
    (∀ w, ({ st 1 2 with pending := [.write 0x40 8 w] } : State).pending = .write 0x40 8 w :: []) ∧
    ∀ w ∈ ([0x100, 0xFF01, 0x00, 0x0D, 0x0F, 0x12, 0x1F, 0x21, 0xFF] : List Word),
      w.toNat / 256 ≠ 0 ∨ w.toNat % 256 = 0 ∨ (0x0D ≤ w.toNat % 256 ∧ w.toNat % 256 ≤ 0x0F) ∨
        (0x12 ≤ w.toNat % 256 ∧ w.toNat % 256 ≤ 0x1F) ∨ 0x21 ≤ w.toNat % 256 :=
  ⟨fun _ => rfl, by simp⟩

theorem witness_StatusDescribesLastCommand :
    (((st 1 2).withFetchWord 64 0x21).pending = .write 0x40 8 0x21 :: [] ∧ ¬ LegalWord 0x21) ∧
    (((st 7 0).withFetchWord 64 0x20).pending = .write 0x40 8 0x20 :: [] ∧ (st 7 0).bHi = 0 ∧ (st 7 0).bLo = 0) ∧
    (((st 7 2).withFetchWord 64 0x20).pending = .write 0x40 8 0x20 :: [] ∧ LegalWord 0x20 ∧ (st 7 2).bLo ≠ 0) := by
  unfold LegalWord
  decide

theorem witness_AccessErrorExactlyWhereNotAllowed :
    (({ State.reset with pending := [.read 0x40 8] } : State).pending = .read 0x40 8 :: [] ∧
      (HostAction.read 0x40 8).wf = false) ∧
    (({ State.reset with pending := [.read 0x48 8] } : State).pending = .read 0x48 8 :: [] ∧
      (HostAction.read 0x48 8).wf = true) := by decide

theorem witness_ReadReturnsSlotAndChangesNothing :
    (∀ d ∈ [DataSlot.aHi, .aLo, .bHi, .bLo, .qHi, .qLo, .rHi, .rLo],
      ({ State.reset with pending := [.read d.offset 8] } : State).pending = .read d.offset 8 :: [] ∧
      isWritten d State.reset = false) ∧
    ({ State.reset with pending := [.read 0x48 8] } : State).pending = .read 0x48 8 :: [] ∧
    ∃ t, plainRun 2 { st 3 0 with pending := [.read 0x08 8, .read 0x08 8] } = .next t :=
  ⟨by decide, by decide, ⟨_, rfl⟩⟩

theorem witness_OperandWriteSetsSlotAndMark : ∀ d ∈ [DataSlot.aHi, .aLo, .bHi, .bLo],
    ({ State.reset with pending := [.write d.offset 8 5] } : State).pending = .write d.offset 8 5 :: [] := by decide

theorem witness_ResetClearsStatusAndMarks :
    ({ st 1 2 with pending := [.reset] } : State).pending = .reset :: [] := by decide

theorem witness_RegisterBytesAreBigEndian : (0 < 16 ∧ 0 < 8) ∧ (7 < 16 ∧ 7 < 8) ∧ (8 < 16 ∧ ¬ 8 < 8) ∧ 15 < 16 := by decide

theorem witness_WindowDecodesLowAddressBits :
    (Config.coreBase ≤ Config.coreBase ∧ Config.coreBase < Config.coreBase + 128) ∧
    (Config.coreBase ≤ Config.coreBase + 127 ∧ Config.coreBase + 127 < Config.coreBase + 128) ∧
    (Config.coreBase + 128 < Config.coreBase ∨ Config.coreBase + 128 ≤ Config.coreBase + 128) ∧
    (List.replicate 8 (0 : Byte)).length = 8 :=
  ⟨⟨Nat.le_refl _, by omega⟩, ⟨by omega, by omega⟩, .inr (Nat.le_refl _), rfl⟩

theorem witness_DisassemblyPrintsMnemonicOrRaw : (0x20 : Word) = encode .divrem ∧ ¬ LegalWord 0x0D := by
  unfold LegalWord
  decide

theorem witness_FastPathIsFloorDivision : (1 : Word) ≠ 0 ∧ (0xFFFFFFFFFFFFFFFF : Word) ≠ 0 := by decide

/-- The least and the greatest shift, and none. -/
theorem witness_NormalizationLosesNoBit :
    (hiLimb 0x10000000000000000 ≠ 0 ∧ (normalize 7 0x10000000000000000).shift = 63) ∧
    (hiLimb minValue ≠ 0 ∧ (normalize 7 minValue).shift = 0) := by decide +kernel

theorem witness_TrialQuotientFitsOneLimb : hiLimb 0x1FFFFFFFFFFFFFFFD ≠ 0 := by decide

/-- DV-G2, where the refinement lowers the trial quotient once. -/
theorem witness_RefinementLeavesExactQuotient : hiLimb 0x1FFFFFFFFFFFFFFFD ≠ 0 ∧
    refinementFires (normalize 0x3FFFFFFFFFFFFFFF9 0x1FFFFFFFFFFFFFFFD)
      (trialQuotient (normalize 0x3FFFFFFFFFFFFFFF9 0x1FFFFFFFFFFFFFFFD)) = true := by decide +kernel

/-- One divisor for each of the three paths of 42_divider.md R123, R124 on the dividend 2^64 + 7. -/
theorem witness_UnsignedDividerIsFloorDivision :
    (3 : Int128) ≠ 0 ∧ (0x10000000000000001 : Int128) ≠ 0 ∧ maxValue ≠ 0 := by decide

theorem witness_DivremTruncatesTowardZero :
    (sB (st 7 2) ≠ 0 ∧ ¬ (sA (st 7 2) = -2 ^ 127 ∧ sB (st 7 2) = -1)) ∧
    (sB (st minValue (-1)) ≠ 0 ∧ sA (st minValue (-1)) = -2 ^ 127 ∧ sB (st minValue (-1)) = -1) := by decide

theorem witness_DivremOnMinValue :
    (opA (st minValue minValue) = minValue ∧ opB (st minValue minValue) = minValue) ∧
    (opA (st 5 minValue) ≠ minValue ∧ opB (st 5 minValue) = minValue) ∧
    (opA (st minValue 1) = minValue ∧ opB (st minValue 1) = 1) ∧
    (opA (st minValue 2) = minValue ∧ opB (st minValue 2) = 2) ∧
    (opA (st minValue 3) = minValue ∧ opB (st minValue 3) = 3) := by decide

theorem witness_DivremByZeroRaisesDzOnly : (st 7 0).bHi = 0 ∧ (st 7 0).bLo = 0 := by decide

theorem witness_CommandWritesOnlyItsWriteSet :
    (DataSlot.rHi ∉ writeSet .add ∧ slotAt 0x30 ≠ .status ∧ ∀ d ∈ writeSet .add, slotAt 0x30 ≠ .data d) ∧
    ¬ (Instr.divrem = .divrem ∧ opB (st 7 2) = 0) ∧ (Instr.divrem = .divrem ∧ opB (st 7 0) = 0) := by decide

/-- MULU64 does not see the high limbs. -/
theorem witness_CommandDependsOnlyOnItsReadSet :
    (∀ d ∈ readSet .mulu64, getSlot d (st 0x50000000000000003 4) = getSlot d (st 3 4)) ∧
    st 0x50000000000000003 4 ≠ st 3 4 := by decide

theorem witness_CommandRunAgainChangesNothing : ∃ t, exec .add (st 1 2) = .next t := ⟨_, rfl⟩

theorem witness_OperandsChangeOnlyByHostWrite :
    (∃ t, step ((st 1 2).withFetchWord 64 1) = .next t) ∧
    ((st 1 2).withFetchWord 64 1).pending = .write 0x40 8 1 :: [] ∧
    ∀ d ∈ [DataSlot.aHi, .aLo, .bHi, .bLo], ∀ v, HostAction.write 0x40 8 1 ≠ .write d.offset 8 v :=
  ⟨⟨_, rfl⟩, by decide, by
    intro d hd v h
    injection h with ho
    revert hd ho
    cases d <;> decide⟩

theorem witness_ResultsChangeOnlyByCompletedCommands :
    (∃ t, step ((st 1 2).withFetchWord 64 0x21) = .next t) ∧
    ((st 1 2).withFetchWord 64 0x21).pending = .write 0x40 8 0x21 :: [] ∧
    (∀ w, HostAction.write 0x40 8 0x21 = .write 0x40 8 w → ¬ LegalWord w) :=
  ⟨⟨_, rfl⟩, by decide, by
    intro w h
    injection h with _ _ hw
    subst hw
    unfold LegalWord
    decide⟩

/-- A command and a write to another slot stand between. -/
theorem witness_ReadReturnsMostRecentWrite :
    ({ State.reset with pending := [.write 0x00 8 5, .write 0x40 8 1, .write 0x08 8 6, .read 0x00 8] } : State).pending =
      .write DataSlot.aHi.offset 8 5 :: ([.write 0x40 8 1, .write 0x08 8 6] ++ .read DataSlot.aHi.offset 8 :: []) ∧
    (∀ a ∈ ([.write 0x40 8 1, .write 0x08 8 6] : List HostAction), a.wf = true ∧ a ≠ .reset) ∧
    (∀ a ∈ ([.write 0x40 8 1, .write 0x08 8 6] : List HostAction), ∀ v, a ≠ .write DataSlot.aHi.offset 8 v) := by
  refine ⟨by decide, by decide, ?_⟩
  intro a ha v h
  subst h
  revert ha
  simp [DataSlot.offset]

/-- The invariant with a command pending, and the step that keeps it. -/
theorem witness_StepKeepsInvariant :
    Inv ((stWritten 1 2).withFetchWord 64 1) ∧ ∃ t, step ((stWritten 1 2).withFetchWord 64 1) = .next t :=
  ⟨⟨by unfold StatusLegal; decide, by unfold MarksLegal; decide⟩, ⟨_, rfl⟩⟩

theorem witness_StrictStepFaultsExactlyOnUnwritten :
    readsUnwritten (State.reset.withFetchWord 64 0x20) = true ∧
    readsUnwritten ((stWritten 1 2).withFetchWord 64 0x20) = false ∧
    strictStep ((stWritten 1 2).withFetchWord 64 0x01) ≠ .fault .unwritten := by
  refine ⟨by decide, by decide, fun h => ?_⟩
  have h' := congrArg answer h
  revert h'
  decide

theorem witness_ConditionsTakePriorityInOrder :
    (HostAction.read 0x40 8).wf = false ∧ ¬ LegalWord 0x0000000100000020 ∧
    ((State.reset.withFetchWord 64 0x20).pending = .write 0x40 8 (encode .divrem) :: [] ∧
      ∃ d ∈ readSet .divrem, isWritten d State.reset = false) ∧
    (((stWritten 7 0).withFetchWord 64 0x20).pending = .write 0x40 8 0x20 :: [] ∧
      (∀ d ∈ readSet .divrem, isWritten d (stWritten 7 0) = true) ∧ opB (stWritten 7 0) = 0) := by
  refine ⟨by decide, ?_, ⟨by decide, .aHi, by decide, by decide⟩, by decide, by decide, by decide⟩
  unfold LegalWord
  decide

/-- Two states that differ in an unwritten slot. -/
theorem witness_UnwrittenSlotsCannotBeObserved :
    AgreeOnWritten State.reset { State.reset with aHi := 5 } ∧ State.reset ≠ { State.reset with aHi := 5 } := by
  refine ⟨⟨rfl, rfl, rfl, rfl, ?_⟩, by decide⟩
  intro d h
  cases d <;> cases h

theorem witness_PlainRunFollowsStrictRun :
    ∃ t, strictRun 1 ((stWritten 1 2).withFetchWord 64 1) = .next t := ⟨_, rfl⟩

/-- A run that answers a state, and one that faults after a step. -/
theorem witness_RunStateIsWhereTheRunEnds :
    (∃ t, strictRun 1 ((stWritten 1 2).withFetchWord 64 1) = .next t) ∧
    strictRun 2 (State.start [.read 0x48 8, .read 0x40 8]) = .fault .accessError := ⟨⟨_, rfl⟩, rfl⟩

/-- Every one of the five ends. -/
theorem witness_RunEndsInOneOfFourKinds :
    ([[], [.write 0x00 8 0, .write 0x08 8 7, .write 0x10 8 0, .write 0x18 8 0, .write 0x40 8 0x20], [.write 0x40 8 0],
      [.read 0x40 8], [.read 0x00 8]] : List (List HostAction)).map (fun l => (run l).kind) =
    [.normal, .exceptionRecorded true false, .exceptionRecorded false true, .faultedByAccessError,
      .faultedByUnwritten] := by decide

/-- Another value in a slot that reset leaves unspecified. -/
theorem witness_RunResultIgnoresUnspecifiedSlots :
    AgreeOnWritten (State.start [.read 0x00 8]) { State.start [.read 0x00 8] with aHi := 5 } ∧
    State.start [.read 0x00 8] ≠ { State.start [.read 0x00 8] with aHi := 5 } := by
  refine ⟨⟨rfl, rfl, rfl, rfl, ?_⟩, by decide⟩
  intro d h
  cases d <;> cases h

theorem witness_PseudoInstructionsMoveValues :
    Reg.A.isOperand = true ∧ Reg.B.isOperand = true ∧ Reg.Q.isOperand = false ∧ Reg.R.isOperand = false := by decide

/-- The names of `get` are two names, and other variables there are. -/
theorem witness_GetBindsRegisterLimbs : "x" ≠ "q" ++ ".hi" ∧ "x" ≠ "q" ++ ".lo" := by decide

/-- Both values of STATUS that `run` can bind. -/
theorem witness_RunPerformsCommandAndBindsStatus :
    (Instr.divrem = .divrem ∧ opB (st 7 0) = 0) ∧ ¬ (Instr.divrem = .divrem ∧ opB (st 7 2) = 0) ∧ "x" ≠ "st" := by decide

end Sys2Proof.Tests
end

section
/-! What decoding answers, read backwards: a word that decodes is the word of its command (30_encoding.md R63, R64), and the
slots that a host action makes the block read. -/

namespace Sys2Proof

/-- A word is its RSV above its OP (30_encoding.md R62). -/
theorem rsvField_append_opField (w : Word) : rsvField w ++ opField w = w := by
  rw [rsvField, opField, BitVec.extractLsb'_append_extractLsb'_eq_extractLsb' (Nat.zero_add 8).symm]
  exact BitVec.extractLsb'_eq_self

/-- The opcode map gives a command at its own OP only. -/
theorem lookup_opcodeMap_eq_some {op : BitVec 8} {i : Instr} (h : opcodeMap.lookup op = some i) : op = opOf i := by
  have hrows : ∀ row ∈ opcodeMap, row.1 = opOf row.2 := by decide
  obtain ⟨before, after, hmap, -⟩ := List.lookup_eq_some_iff.mp h
  exact hrows (op, i) (by simp [hmap])

theorem decode_encode (i : Instr) : decode (encode i) = .ok i := by cases i <;> rfl

/-- A word that decodes to a command is that command's word. -/
theorem eq_encode_of_decode {w : Word} {i : Instr} (h : decode w = .ok i) : w = encode i := by
  obtain ⟨hrsv, hlookup⟩ := decode_eq_ok h
  rw [← rsvField_append_opField w, hrsv, lookup_opcodeMap_eq_some hlookup]
  cases i <;> rfl

namespace Machine

theorem legalWord_encode (i : Instr) : LegalWord (encode i) := by
  cases i <;> exact ⟨by decide, by decide⟩

/-- A host action reads a data slot exactly if it is an 8-byte read at the slot's offset, or a CMD write of a command whose
read set holds the slot (10_state.md R36). -/
theorem mem_slotsRead_iff {d : DataSlot} {a : HostAction} :
    d ∈ slotsRead a ↔
      a = .read d.offset 8 ∨ ∃ i, a = .write cmdOffset 8 (encode i) ∧ d ∈ readSet i := by
  constructor
  · intro h
    cases a with
    | read off width =>
      simp only [slotsRead] at h
      split at h
      case h_1 e he =>
        obtain rfl := List.mem_singleton.mp h
        obtain ⟨rfl, -, -⟩ := accessSlot_eq_some he
        exact .inl (by rw [offset_of_accessSlot he])
      all_goals cases h
    | write off width w =>
      simp only [slotsRead] at h
      split at h
      case h_1 hc =>
        split at h
        · next i hi =>
          obtain ⟨rfl, -, -⟩ := accessSlot_eq_some hc
          exact .inr ⟨i, by rw [offset_of_accessSlot_cmd hc, eq_encode_of_decode hi], h⟩
        · cases h
      all_goals cases h
    | reset => cases h
  · rintro (rfl | ⟨i, rfl, hd⟩)
    · simp [slotsRead]
    · simpa [slotsRead, cmdOffset, decode_encode] using hd

/-- A strict step stops exactly where the oldest pending action reads a slot whose mark is clear. -/
theorem readsUnwritten_iff {s : State} :
    readsUnwritten s = true ↔ ∃ a rest, s.pending = a :: rest ∧ ∃ d ∈ slotsRead a, isWritten d s = false := by
  unfold readsUnwritten
  split
  · next h => simp [h]
  · next a rest h => simp [h]

end Machine
end Sys2Proof
end

section
/-! What a command writes and what it depends on (10_state.md R37, R38). -/

namespace Sys2Proof.Machine

/-- No command writes a slot of A or B. -/
theorem not_mem_writeSet_of_isOperand {d : DataSlot} (h : d.isOperand = true) (i : Instr) : d ∉ writeSet i := by
  revert h
  cases i <;> cases d <;> decide

theorem writeSet_of_ne_divrem {i : Instr} (h : i ≠ .divrem) : writeSet i = [.qHi, .qLo] := by
  cases i
  case divrem => exact absurd rfl h
  all_goals rfl

/-- A command reads slots of A and B only. -/
theorem isOperand_of_mem_readSet {d : DataSlot} {i : Instr} (h : d ∈ readSet i) : d.isOperand = true := by
  revert h
  cases i <;> cases d <;> decide

/-- The frame of a command: slots and marks outside its write set. -/
theorem exec_frame {i : Instr} {s t : State} {d : DataSlot} (h : exec i s = .next t) (hd : d ∉ writeSet i) :
    getSlot d t = getSlot d s ∧ isWritten d t = isWritten d s := by
  obtain ⟨hi, he⟩ | ⟨rfl, -, he⟩ | ⟨rfl, -, he⟩ := exec_cases i s <;> cases he.symm.trans h
  · simp only [writeSet_of_ne_divrem hi, List.mem_cons, List.not_mem_nil, or_false, not_or] at hd
    simp [getSlot_completeQ, isWritten_completeQ, hd]
  · simp only [writeSet, List.mem_cons, List.not_mem_nil, or_false, not_or] at hd
    simp [getSlot_completeQR, isWritten_completeQR, hd]
  · simp

/-- A command leaves the host's side alone. -/
theorem exec_host_side {i : Instr} {s t : State} (h : exec i s = .next t) :
    t.pending = s.pending ∧ t.returned = s.returned := by
  obtain ⟨-, he⟩ | ⟨-, -, he⟩ | ⟨-, -, he⟩ := exec_cases i s <;> cases he.symm.trans h <;> simp

/-- A command that raises no exception sets STATUS to 0 and marks its write set. -/
theorem exec_completes {i : Instr} {s t : State} (h : exec i s = .next t) (hok : ¬ (i = .divrem ∧ opB s = 0)) :
    t.status = 0 ∧ ∀ d ∈ writeSet i, isWritten d t = true := by
  obtain ⟨hi, he⟩ | ⟨rfl, -, he⟩ | ⟨hi, hb, -⟩ := exec_cases i s
  · cases he.symm.trans h
    simp [writeSet_of_ne_divrem hi, isWritten_completeQ]
  · cases he.symm.trans h
    simp [writeSet, isWritten_completeQR]
  · exact absurd ⟨hi, hb⟩ hok

/-- Every command answers a next state. -/
theorem exec_next (i : Instr) (s : State) : ∃ t, exec i s = .next t := by
  obtain ⟨-, h⟩ | ⟨-, -, h⟩ | ⟨-, -, h⟩ := exec_cases i s <;> exact ⟨_, h⟩

/-- A byte of the window that is not STATUS's changes only with its slot (20_memory.md R42). -/
theorem windowByte_eq_of_getSlot_eq {off : BitVec 7} {s t : State} (hst : slotAt off ≠ .status)
    (h : ∀ d, slotAt off = .data d → getSlot d t = getSlot d s) : windowByte off t = windowByte off s := by
  unfold windowByte
  cases hs : slotAt off with
  | data d => simp only [slotValue, h d hs]
  | cmd => rfl
  | status => exact absurd hs hst
  | reserved => rfl

/-- Settles O42, by the frame of a command and by what it does without an exception. -/
theorem commandWritesOnlyItsWriteSet : Obligations.CommandWritesOnlyItsWriteSet := by
  intro i s
  obtain ⟨t, h⟩ := exec_next i s
  obtain ⟨hpending, hreturned⟩ := exec_host_side h
  refine ⟨t, h, fun d hd => exec_frame h hd, ?_, hpending, hreturned, exec_completes h, ?_⟩
  · intro off hst hoff
    exact windowByte_eq_of_getSlot_eq hst fun d hd => (exec_frame h fun hmem => hoff d hmem hd).1
  · rintro ⟨rfl, hb⟩
    cases (exec_divrem_of_eq_zero hb).symm.trans h
    rfl

/-! ### Dependence on the read set -/

/-- The three kinds of read set: both operands; A alone, B being ignored; and the low limbs, for MULU64. -/
theorem readSet_cases (i : Instr) :
    readSet i = [.aHi, .aLo, .bHi, .bLo] ∨
    (readSet i = [.aHi, .aLo] ∧ ∀ a b b', primaryResult i a b = primaryResult i a b') ∨
    i = .mulu64 := by
  cases i <;> simp [readSet, primaryResult]

theorem primaryResult_mulu64 (s : State) : primaryResult .mulu64 (opA s) (opB s) = mulU64 s.aLo s.bLo := by
  simp [primaryResult, opA, opB]

section ReadSet
variable {i : Instr} {s t : State}

/-- Operands whose slots hold the same are the same. -/
theorem opA_congr (hHi : getSlot .aHi s = getSlot .aHi t) (hLo : getSlot .aLo s = getSlot .aLo t) : opA s = opA t :=
  congrArg₂ join hHi hLo

theorem opB_congr (hHi : getSlot .bHi s = getSlot .bHi t) (hLo : getSlot .bLo s = getSlot .bLo t) : opB s = opB t :=
  congrArg₂ join hHi hLo

/-- The primary result depends on the read set alone. -/
theorem primaryResult_eq_of_readSet (h : ∀ d ∈ readSet i, getSlot d s = getSlot d t) :
    primaryResult i (opA s) (opB s) = primaryResult i (opA t) (opB t) := by
  obtain hr | ⟨hr, hB⟩ | rfl := readSet_cases i
  · rw [hr] at h
    rw [opA_congr (h _ (by simp)) (h _ (by simp)), opB_congr (h _ (by simp)) (h _ (by simp))]
  · rw [hr] at h
    rw [opA_congr (h _ (by simp)) (h _ (by simp)), hB]
  · have ha : s.aLo = t.aLo := h .aLo (by simp [readSet])
    have hb : s.bLo = t.bLo := h .bLo (by simp [readSet])
    rw [primaryResult_mulu64, primaryResult_mulu64, ha, hb]

/-- On two states that agree on its read set a command does one and the same thing: it writes the same Q, the same Q and R,
or raises DZ. -/
theorem exec_cases_of_readSet (h : ∀ d ∈ readSet i, getSlot d s = getSlot d t) :
    (i ≠ .divrem ∧ ∃ q, exec i s = .next (completeQ q s) ∧ exec i t = .next (completeQ q t)) ∨
    (i = .divrem ∧ ∃ q r, exec i s = .next (completeQR q r s) ∧ exec i t = .next (completeQR q r t)) ∨
    (exec i s = .next (raise .dz s) ∧ exec i t = .next (raise .dz t)) := by
  by_cases hi : i = .divrem
  · subst hi
    have hA : opA s = opA t := opA_congr (h _ (by simp [readSet])) (h _ (by simp [readSet]))
    have hB : opB s = opB t := opB_congr (h _ (by simp [readSet])) (h _ (by simp [readSet]))
    by_cases hb : opB t = 0
    · exact .inr (.inr ⟨exec_divrem_of_eq_zero (hB.trans hb), exec_divrem_of_eq_zero hb⟩)
    · have hs := exec_divrem_of_ne_zero (s := s) (by rwa [hB])
      rw [hA, hB] at hs
      exact .inr (.inl ⟨rfl, _, _, hs, exec_divrem_of_ne_zero hb⟩)
  · refine .inl ⟨hi, _, exec_of_ne_divrem hi s, ?_⟩
    rw [primaryResult_eq_of_readSet h]
    exact exec_of_ne_divrem hi t

end ReadSet

/-- Settles O43: on states that agree on the read set a command writes the same values. -/
theorem commandDependsOnlyOnItsReadSet : Obligations.CommandDependsOnlyOnItsReadSet := by
  intro i s t h
  obtain ⟨hi, q, hs, ht⟩ | ⟨rfl, q, r, hs, ht⟩ | ⟨hs, ht⟩ := exec_cases_of_readSet h <;>
    refine ⟨_, _, hs, ht, rfl, fun hstatus => ?_⟩
  · simp [writeSet_of_ne_divrem hi, getSlot_completeQ]
  · simp [writeSet, getSlot_completeQR]
  · simp at hstatus

/-- Settles O44: a command leaves its read set alone, so it does the same thing again, and doing it twice is doing it once. -/
theorem commandRunAgainChangesNothing : Obligations.CommandRunAgainChangesNothing := by
  intro i s t h
  have hread : ∀ d ∈ readSet i, getSlot d s = getSlot d t := fun d hd =>
    (exec_frame h (not_mem_writeSet_of_isOperand (isOperand_of_mem_readSet hd) i)).1.symm
  obtain ⟨-, q, hs, ht⟩ | ⟨-, q, r, hs, ht⟩ | ⟨hs, ht⟩ := exec_cases_of_readSet hread <;>
    rw [ht] <;> cases hs.symm.trans h
  · rw [completeQ_completeQ]
  · rw [completeQR_completeQR]
  · rfl

end Sys2Proof.Machine
end

section
/-! What a step changes (10_state.md R21 to R24) and the invariant it keeps (R27, 60_exceptions.md R155). -/

namespace Sys2Proof.Machine

/-- The frame of a host action: a slot and its mark change only by reset, by a host write to an operand slot, or by a command
that has the slot in its write set and raises no exception. -/
theorem transact_frame {a : HostAction} {s t : State} {d : DataSlot} (h : transact a s = .next t) (hreset : a ≠ .reset)
    (hwrite : d.isOperand = true → ∀ v, a ≠ .write d.offset 8 v)
    (hcmd : ∀ i, a = .write cmdOffset 8 (encode i) → d ∈ writeSet i → i = .divrem ∧ opB s = 0) :
    getSlot d t = getSlot d s ∧ isWritten d t = isWritten d s := by
  obtain ⟨e, rfl, rfl⟩ | ⟨off, rfl, -, rfl⟩ | ⟨e, v, he, rfl, rfl⟩ | ⟨w, i, rfl, hw, hx⟩ | ⟨w, e, rfl, -, rfl⟩ | ⟨rfl, rfl⟩ :=
    transact_cases h
  · simp
  · simp
  · have hne : d ≠ e := by
      rintro rfl
      exact hwrite he v rfl
    simp [getSlot_setSlot, isWritten_setSlot, hne]
  · by_cases hd : d ∈ writeSet i
    · obtain ⟨rfl, hb⟩ := hcmd i (by rw [eq_encode_of_decode hw]) hd
      cases (exec_divrem_of_eq_zero hb).symm.trans hx
      simp
    · exact exec_frame hx hd
  · simp
  · exact absurd rfl hreset

/-- The frame of a step on an action, from the frame of the action. -/
theorem step_frame {a : HostAction} {rest : List HostAction} {s t : State} {d : DataSlot}
    (hp : s.pending = a :: rest) (h : step s = .next t) (hreset : a ≠ .reset)
    (hwrite : d.isOperand = true → ∀ v, a ≠ .write d.offset 8 v)
    (hcmd : ∀ i, a = .write cmdOffset 8 (encode i) → d ∈ writeSet i → i = .divrem ∧ opB s = 0) :
    getSlot d t = getSlot d s ∧ isWritten d t = isWritten d s := by
  rw [step_of_pending hp] at h
  simpa using transact_frame h hreset hwrite (by simpa using hcmd)

/-- Settles O45: no write set holds an operand slot. -/
theorem operandsChangeOnlyByHostWrite : Obligations.OperandsChangeOnlyByHostWrite := by
  intro s t a rest d hp h hd hreset hwrite
  have hoperand : ∀ e ∈ [DataSlot.aHi, .aLo, .bHi, .bLo], e.isOperand = true := by decide
  exact step_frame hp h hreset (fun _ => hwrite) fun i _ hmem =>
    absurd hmem (not_mem_writeSet_of_isOperand (hoperand d hd) i)

/-- Only DIVREM writes R. -/
theorem eq_divrem_of_mem_writeSet {d : DataSlot} {i : Instr} (hd : d = .rHi ∨ d = .rLo) (h : d ∈ writeSet i) :
    i = .divrem := by
  by_contra hi
  rw [writeSet_of_ne_divrem hi] at h
  obtain rfl | rfl := hd <;> simp at h

theorem eq_divrem_of_encode_eq {i : Instr} (h : encode i = 0x20) : i = .divrem := by
  revert h
  cases i <;> decide

/-- Settles O46: the slots of Q and R are no operand slots, so only a command that completes changes them. -/
theorem resultsChangeOnlyByCompletedCommands : Obligations.ResultsChangeOnlyByCompletedCommands := by
  intro s t a rest hp h hreset
  constructor
  · intro hcmd
    have hframe : ∀ d : DataSlot, d.isOperand = false → getSlot d t = getSlot d s ∧ isWritten d t = isWritten d s := by
      intro d hd
      refine step_frame hp h hreset (by simp [hd]) fun i ha _ => ?_
      obtain hill | ⟨hw, hb⟩ := hcmd (encode i) ha
      · exact absurd (legalWord_encode i) hill
      · exact ⟨eq_divrem_of_encode_eq hw, hb⟩
    obtain ⟨hHi, hmHi⟩ := hframe .qHi rfl
    obtain ⟨hLo, hmLo⟩ := hframe .qLo rfl
    exact ⟨congrArg₂ join hHi hLo, hmHi, hmLo⟩
  · intro hcmd
    have hframe : ∀ d : DataSlot, d = .rHi ∨ d = .rLo → getSlot d t = getSlot d s ∧ isWritten d t = isWritten d s := by
      intro d hd
      refine step_frame hp h hreset (by obtain rfl | rfl := hd <;> simp [DataSlot.isOperand]) fun i ha hmem => ?_
      obtain rfl := eq_divrem_of_mem_writeSet hd hmem
      exact ⟨rfl, hcmd ha⟩
    obtain ⟨hHi, hmHi⟩ := hframe .rHi (.inl rfl)
    obtain ⟨hLo, hmLo⟩ := hframe .rLo (.inr rfl)
    exact ⟨congrArg₂ join hHi hLo, hmHi, hmLo⟩

/-! ### The invariant -/

/-- The three values of STATUS that a command leaves are legal (60_exceptions.md R158). -/
theorem statusLegal_statusWord (e : Option Exception) : StatusLegal (statusWord e) := by
  rcases e with _ | _ | _ <;> exact ⟨by decide, by decide⟩

theorem marksLegal_none : MarksLegal Marks.none := ⟨rfl, rfl, by simp [Marks.none]⟩

/-- Writing Q whole keeps the marks legal. -/
theorem marksLegal_setQ {m : Marks} (h : MarksLegal m) : MarksLegal { m with qHi := true, qLo := true } := by
  obtain ⟨-, hr, -⟩ := h
  exact ⟨rfl, hr, fun _ => rfl⟩

theorem marksLegal_setQR (m : Marks) :
    MarksLegal { m with qHi := true, qLo := true, rHi := true, rLo := true } := ⟨rfl, rfl, fun _ => rfl⟩

/-- A host write to an operand slot leaves the marks of Q and R alone. -/
theorem marksLegal_setSlot {d : DataSlot} {v : Word} {s : State} (hd : d.isOperand = true) (h : MarksLegal s.written) :
    MarksLegal (setSlot d v s).written := by
  cases d
  case aHi | aLo | bHi | bLo => exact h
  all_goals cases hd

/-- Settles O48. -/
theorem invariantHoldsAtReset : Obligations.InvariantHoldsAtReset :=
  ⟨statusLegal_statusWord none, marksLegal_none⟩

/-- A command keeps the invariant. -/
theorem exec_keeps_inv {i : Instr} {s t : State} (hs : Inv s) (h : exec i s = .next t) : Inv t := by
  obtain ⟨-, hmarks⟩ := hs
  obtain ⟨-, he⟩ | ⟨-, -, he⟩ | ⟨-, -, he⟩ := exec_cases i s <;> cases he.symm.trans h
  · refine ⟨statusLegal_statusWord none, ?_⟩
    rw [completeQ_written]
    exact marksLegal_setQ hmarks
  · exact ⟨statusLegal_statusWord none, marksLegal_setQR _⟩
  · exact ⟨statusLegal_statusWord (some .dz), hmarks⟩

/-- A host action keeps the invariant. -/
theorem transact_keeps_inv {a : HostAction} {s t : State} (hs : Inv s) (h : transact a s = .next t) : Inv t := by
  obtain ⟨hstatus, hmarks⟩ := id hs
  obtain ⟨d, -, rfl⟩ | ⟨off, -, -, rfl⟩ | ⟨d, v, hd, -, rfl⟩ | ⟨w, i, -, -, hx⟩ | ⟨w, e, -, -, rfl⟩ | ⟨-, rfl⟩ :=
    transact_cases h
  · exact hs
  · exact hs
  · exact ⟨by simpa using hstatus, marksLegal_setSlot hd hmarks⟩
  · exact exec_keeps_inv hs hx
  · exact ⟨statusLegal_statusWord (some .ill), hmarks⟩
  · exact ⟨statusLegal_statusWord none, marksLegal_none⟩

/-- Settles O49, by cases on what the step's action did. -/
theorem stepKeepsInvariant : Obligations.StepKeepsInvariant := by
  intro s t hs h
  cases hp : s.pending with
  | nil =>
    cases (step_of_idle hp).symm.trans h
    exact hs
  | cons a rest =>
    rw [step_of_pending hp] at h
    exact transact_keeps_inv (s := { s with pending := rest }) hs h

end Sys2Proof.Machine
end

section
/-! Strict runs: where the strict step faults (10_state.md R36), that the plain run follows it, and that what unwritten slots
hold cannot be seen (R34, R35). -/

namespace Sys2Proof.Machine

/-! ### Where the strict step faults -/

/-- A host action that faults is an ACCESS_ERROR (20_memory.md R47). -/
theorem transact_fault {a : HostAction} {s : State} {f : Fault} (h : transact a s = .fault f) : f = .accessError := by
  cases a with
  | read off width =>
    simp only [transact] at h
    split at h <;> cases h <;> rfl
  | write off width w =>
    simp only [transact] at h
    split at h
    case h_1 => split at h <;> cases h; rfl
    case h_2 =>
      obtain ⟨t, ht⟩ := runCommand_next w s
      cases ht.symm.trans h
    all_goals cases h; rfl
  | reset => cases h

/-- The step goes on past unwritten slots (log entry 2). -/
theorem step_ne_fault_unwritten (s : State) : step s ≠ .fault .unwritten := by
  intro h
  cases hp : s.pending with
  | nil => cases (step_of_idle hp).symm.trans h
  | cons a rest =>
    rw [step_of_pending hp] at h
    cases transact_fault h

theorem strictStep_eq_fault_unwritten_iff {s : State} : strictStep s = .fault .unwritten ↔ readsUnwritten s = true := by
  obtain ⟨hr, hs⟩ | ⟨hr, hs⟩ := strictStep_cases s
  · simp [hr, hs]
  · simp [hr, hs, step_ne_fault_unwritten]

/-- Settles O50: the slots an action reads are those that R36 names. -/
theorem strictStepFaultsExactlyOnUnwritten : Obligations.StrictStepFaultsExactlyOnUnwritten := by
  intro s
  constructor
  · rw [strictStep_eq_fault_unwritten_iff, readsUnwritten_iff]
    constructor
    · rintro ⟨a, rest, hp, d, hd, hclear⟩
      obtain rfl | ⟨i, rfl, hi⟩ := mem_slotsRead_iff.mp hd
      · exact .inl ⟨d, rest, hp, hclear⟩
      · exact .inr ⟨i, rest, hp, d, hi, hclear⟩
    · rintro (⟨d, rest, hp, hclear⟩ | ⟨i, rest, hp, d, hi, hclear⟩)
      · exact ⟨_, rest, hp, d, mem_slotsRead_iff.mpr (.inl rfl), hclear⟩
      · exact ⟨_, rest, hp, d, mem_slotsRead_iff.mpr (.inr ⟨i, rfl, hi⟩), hclear⟩
  · intro hne
    obtain ⟨-, hs⟩ | ⟨-, hs⟩ := strictStep_cases s
    · exact absurd hs hne
    · exact hs

/-! ### The plain run follows the strict run -/

/-- A strict step that answers a state is the step. -/
theorem step_of_strictStep_next {s t : State} (h : strictStep s = .next t) : step s = .next t := by
  obtain ⟨-, hs⟩ | ⟨-, hs⟩ := strictStep_cases s
  · cases hs.symm.trans h
  · exact hs.symm.trans h

theorem plainRun_succ_of_next {s t : State} (k : Nat) (h : step s = .next t) : plainRun (k + 1) s = plainRun k t := by
  simp only [plainRun, h]

/-- A strict run that answers a state answered one in its first step. -/
theorem strictStep_next_of_strictRun {k : Nat} {s t : State} (h : strictRun (k + 1) s = .next t) :
    ∃ u, strictStep s = .next u ∧ strictRun k u = .next t := by
  simp only [strictRun] at h
  split at h
  · next u hu => exact ⟨u, hu, h⟩
  all_goals cases h

/-- Settles O53, by induction on the length of the run. -/
theorem plainRunFollowsStrictRun : Obligations.PlainRunFollowsStrictRun := by
  intro k
  induction k with
  | zero => exact fun _ _ h => h
  | succ k ih =>
    intro s t h
    obtain ⟨u, hu, hrun⟩ := strictStep_next_of_strictRun h
    rw [plainRun_succ_of_next k (step_of_strictStep_next hu)]
    exact ih u t hrun

/-! ### Agreement on the written slots -/

section Agree
variable {s t : State}

theorem isWritten_congr (h : s.written = t.written) (d : DataSlot) : isWritten d s = isWritten d t := by
  cases d <;> simp only [isWritten, h]

theorem setSlot_written_congr (h : s.written = t.written) (d : DataSlot) (v : Word) :
    (setSlot d v s).written = (setSlot d v t).written := by
  cases d <;> simp only [setSlot, h]

/-- The same value written to the same slot keeps two states in agreement. -/
theorem agreeOnWritten_setSlot (h : AgreeOnWritten s t) (d : DataSlot) (v : Word) :
    AgreeOnWritten (setSlot d v s) (setSlot d v t) := by
  obtain ⟨hstatus, hmarks, hpending, hreturned, hslots⟩ := h
  refine ⟨by simpa, setSlot_written_congr hmarks d v, by simpa, by simpa, fun e he => ?_⟩
  rw [isWritten_setSlot] at he
  rw [getSlot_setSlot, getSlot_setSlot]
  split at he
  · next hed => simp only [if_pos hed]
  · next hed => simp only [if_neg hed, hslots e he]

theorem agreeOnWritten_setStatus (h : AgreeOnWritten s t) (v : Word) :
    AgreeOnWritten (setStatus v s) (setStatus v t) := by
  obtain ⟨-, hmarks, hpending, hreturned, hslots⟩ := h
  exact ⟨rfl, hmarks, hpending, hreturned, by simpa using hslots⟩

theorem agreeOnWritten_completeQ (h : AgreeOnWritten s t) (q : Int128) :
    AgreeOnWritten (completeQ q s) (completeQ q t) :=
  agreeOnWritten_setStatus (agreeOnWritten_setSlot (agreeOnWritten_setSlot h _ _) _ _) _

theorem agreeOnWritten_completeQR (h : AgreeOnWritten s t) (q r : Int128) :
    AgreeOnWritten (completeQR q r s) (completeQR q r t) :=
  agreeOnWritten_setStatus (agreeOnWritten_setSlot (agreeOnWritten_setSlot (agreeOnWritten_setSlot
    (agreeOnWritten_setSlot h _ _) _ _) _ _) _ _) _

theorem agreeOnWritten_returnRead (h : AgreeOnWritten s t) (v : Word) :
    AgreeOnWritten (returnRead v s) (returnRead v t) := by
  obtain ⟨hstatus, hmarks, hpending, hreturned, hslots⟩ := h
  exact ⟨hstatus, hmarks, hpending, by simp [hreturned], by simpa using hslots⟩

theorem agreeOnWritten_applyReset (h : AgreeOnWritten s t) : AgreeOnWritten (applyReset s) (applyReset t) := by
  obtain ⟨-, -, hpending, hreturned, -⟩ := h
  exact ⟨rfl, rfl, hpending, hreturned, by simp⟩

theorem agreeOnWritten_withPending (h : AgreeOnWritten s t) (rest : List HostAction) :
    AgreeOnWritten { s with pending := rest } { t with pending := rest } := by
  obtain ⟨hstatus, hmarks, -, hreturned, hslots⟩ := h
  exact ⟨hstatus, hmarks, rfl, hreturned, by simpa using hslots⟩

/-! ### Agreement is kept by what keeps to the written slots -/

/-- A command whose read set is written keeps two states in agreement. -/
theorem exec_agree {i : Instr} (h : AgreeOnWritten s t) (hread : ∀ d ∈ readSet i, isWritten d s = true) :
    OutcomesAgree (exec i s) (exec i t) := by
  have hslots : ∀ d ∈ readSet i, getSlot d s = getSlot d t := by
    obtain ⟨-, -, -, -, hslots⟩ := h
    exact fun d hd => hslots d (hread d hd)
  obtain ⟨-, q, hs, ht⟩ | ⟨-, q, r, hs, ht⟩ | ⟨hs, ht⟩ := exec_cases_of_readSet hslots <;> rw [hs, ht]
  · exact agreeOnWritten_completeQ h q
  · exact agreeOnWritten_completeQR h q r
  · exact agreeOnWritten_setStatus h _

/-- A write to CMD whose word reads written slots only keeps two states in agreement. -/
theorem runCommand_agree {w : Word} (h : AgreeOnWritten s t)
    (hread : ∀ i, w = encode i → ∀ d ∈ readSet i, isWritten d s = true) :
    OutcomesAgree (runCommand w s) (runCommand w t) := by
  simp only [runCommand]
  cases hw : decode w with
  | ok i => exact exec_agree h (hread i (eq_encode_of_decode hw))
  | error e => exact agreeOnWritten_setStatus h _

/-- A host action that reads written slots only keeps two states in agreement. -/
theorem transact_agree {a : HostAction} (h : AgreeOnWritten s t) (hread : ∀ d ∈ slotsRead a, isWritten d s = true) :
    OutcomesAgree (transact a s) (transact a t) := by
  cases a with
  | read off width =>
    obtain ⟨hstatus, -, -, -, hslots⟩ := id h
    simp only [transact]
    cases ha : accessSlot off width with
    | none => rfl
    | some S =>
      cases S with
      | data d =>
        have hd : getSlot d s = getSlot d t := hslots d (hread d (by simp [slotsRead, ha]))
        simp only [hd]
        exact agreeOnWritten_returnRead h _
      | status =>
        simp only [hstatus]
        exact agreeOnWritten_returnRead h _
      | cmd | reserved => rfl
  | write off width w =>
    simp only [transact]
    cases ha : accessSlot off width with
    | none => rfl
    | some S =>
      cases S with
      | data d =>
        by_cases hd : d.isOperand = true
        · simp only [if_pos hd]
          exact agreeOnWritten_setSlot h d w
        · simp only [if_neg hd]
          rfl
      | cmd =>
        refine runCommand_agree h fun i hi d hd => hread d ?_
        simpa [slotsRead, ha, hi, decode_encode] using hd
      | status | reserved => rfl
  | reset => exact agreeOnWritten_applyReset h

/-- A step that reads written slots only keeps two states in agreement. -/
theorem step_agree (h : AgreeOnWritten s t) (hread : readsUnwritten s = false) : OutcomesAgree (step s) (step t) := by
  obtain ⟨-, -, hp, -, -⟩ := id h
  cases hs : s.pending with
  | nil =>
    rw [step_of_idle hs, step_of_idle (hp.symm.trans hs)]
    exact h
  | cons a rest =>
    rw [step_of_pending hs, step_of_pending (hp.symm.trans hs)]
    refine transact_agree (agreeOnWritten_withPending h rest) fun d hd => ?_
    by_contra hclear
    have hunwritten := readsUnwritten_iff.mpr ⟨a, rest, hs, d, hd, by simpa using hclear⟩
    simp [hread] at hunwritten

/-- Two states in agreement read unwritten slots alike: that rests on the marks and the pending actions alone. -/
theorem readsUnwritten_congr (h : AgreeOnWritten s t) : readsUnwritten s = readsUnwritten t := by
  obtain ⟨-, hmarks, hpending, -, -⟩ := h
  simp only [readsUnwritten, hpending, isWritten_congr hmarks]

theorem strictStep_agree (h : AgreeOnWritten s t) : OutcomesAgree (strictStep s) (strictStep t) := by
  cases hr : readsUnwritten s
  · simpa [strictStep, ← readsUnwritten_congr h, hr] using step_agree h hr
  · simp [strictStep, ← readsUnwritten_congr h, hr, OutcomesAgree]

end Agree

/-- Outcomes that agree are of one kind. -/
theorem outcomesAgree_cases {x y : Host.Outcome State Fault Refusal} (h : OutcomesAgree x y) :
    (∃ s t, x = .next s ∧ y = .next t ∧ AgreeOnWritten s t) ∨ (∃ f, x = .fault f ∧ y = .fault f) ∨
    (∃ r, x = .refused r ∧ y = .refused r) := by
  cases x with
  | next s =>
    cases y with
    | next t => exact .inl ⟨s, t, rfl, rfl, h⟩
    | fault _ | refused _ => cases h
  | fault f =>
    cases y with
    | fault _ => cases h; exact .inr (.inl ⟨f, rfl, rfl⟩)
    | next _ | refused _ => cases h
  | refused r =>
    cases y with
    | refused _ => cases h; exact .inr (.inr ⟨r, rfl, rfl⟩)
    | next _ | fault _ => cases h

/-- Settles O52, by induction on the length of the run: a strict step keeps agreement on the written slots. -/
theorem unwrittenSlotsCannotBeObserved : Obligations.UnwrittenSlotsCannotBeObserved := by
  intro k
  induction k with
  | zero => exact fun _ _ h => h
  | succ k ih =>
    intro s t h
    obtain ⟨s', t', hs, ht, h'⟩ | ⟨f, hs, ht⟩ | ⟨r, hs, ht⟩ := outcomesAgree_cases (strictStep_agree h)
    · rw [strictRun_succ_of_next k hs, strictRun_succ_of_next k ht]
      exact ih s' t' h'
    · rw [strictRun_succ_of_fault k hs, strictRun_succ_of_fault k ht]
      rfl
    · simp only [strictRun, hs, ht]
      rfl

end Sys2Proof.Machine
end

section
/-! The register window as bytes: the byte order of a slot and of a register, and the bus addresses of the window
(20_memory.md R41 to R43). -/

namespace Sys2Proof

/-- Bytes `j` to 7 of a slot's value follow those before them (20_memory.md R43). -/
theorem extractLsb'_append_slotByte (v : Word) {n start : Nat} (j : Nat) (h : start = 56 - 8 * j + 8) :
    v.extractLsb' start n ++ slotByte v j = v.extractLsb' (56 - 8 * j) (n + 8) :=
  BitVec.extractLsb'_append_extractLsb'_eq_extractLsb' h

theorem wordOfBytes_bytesOfWord (w : Word) : wordOfBytes (bytesOfWord w) = some w := by
  have h0 : slotByte w 0 = w.extractLsb' 56 8 := rfl
  simp only [bytesOfWord, List.range, List.range.loop, List.map_cons, List.map_nil, wordOfBytes, Option.some.injEq]
  rw [h0, extractLsb'_append_slotByte w 1 rfl, extractLsb'_append_slotByte w 2 rfl, extractLsb'_append_slotByte w 3 rfl,
    extractLsb'_append_slotByte w 4 rfl, extractLsb'_append_slotByte w 5 rfl, extractLsb'_append_slotByte w 6 rfl,
    extractLsb'_append_slotByte w 7 rfl]
  exact BitVec.extractLsb'_eq_self

/-- Settles O4: decoding bytes goes through the word that they stand for. -/
theorem bytesOfAWordStandForIt : Obligations.BytesOfAWordStandForIt := by
  intro w
  exact ⟨wordOfBytes_bytesOfWord w, by simp only [decodeBytes, wordOfBytes_bytesOfWord]⟩

/-- Eight bytes stand for a slot value. -/
theorem isSome_wordOfBytes {bytes : List Byte} (h : bytes.length = 8) : (wordOfBytes bytes).isSome = true := by
  match bytes, h with
  | [_, _, _, _, _, _, _, _], _ => rfl

end Sys2Proof

namespace Sys2Proof.Machine

/-! ### Bytes of the window -/

/-- Offset `8*i + k` is byte `k` of the data slot `i` (20_memory.md R42, R43). -/
theorem slotAt_offset_add (d : DataSlot) {k : Nat} (hk : k < 8) :
    slotAt (d.offset + BitVec.ofNat 7 k) = .data d ∧ ((d.offset + BitVec.ofNat 7 k).extractLsb' 0 3).toNat = k := by
  revert k
  cases d <;> decide

theorem windowByte_dataSlot (d : DataSlot) {k : Nat} (hk : k < 8) (s : State) :
    windowByte (d.offset + BitVec.ofNat 7 k) s = some (slotByte (getSlot d s) k) := by
  obtain ⟨hslot, hbyte⟩ := slotAt_offset_add d hk
  rw [windowByte, hslot, hbyte]
  rfl

/-- Offset `0x48 + k` is byte `k` of STATUS. -/
theorem slotAt_status_add {k : Nat} (hk : k < 8) :
    slotAt (BitVec.ofNat 7 (0x48 + k)) = .status ∧ ((BitVec.ofNat 7 (0x48 + k)).extractLsb' 0 3).toNat = k := by
  revert k
  decide

theorem windowByte_status {k : Nat} (hk : k < 8) (s : State) :
    windowByte (BitVec.ofNat 7 (0x48 + k)) s = some (slotByte s.status k) := by
  obtain ⟨hslot, hbyte⟩ := slotAt_status_add hk
  rw [windowByte, hslot, hbyte]
  rfl

/-- A part of a part of a value is a part of the value. -/
theorem extractLsb'_extractLsb'_of_le {w : Nat} (v : BitVec w) {start len start' len' : Nat} (h : start' + len' ≤ len) :
    (v.extractLsb' start len).extractLsb' start' len' = v.extractLsb' (start + start') len' := by
  apply BitVec.eq_of_getLsbD_eq
  intro i hi
  have hlen : start' + i < len := by omega
  simp [hi, hlen, Nat.add_assoc]

/-- The high limb is the first eight of a register's sixteen bytes. -/
theorem slotByte_hiLimb (v : Int128) {k : Nat} (hk : k < 8) : slotByte (hiLimb v) k = v.extractLsb' (120 - 8 * k) 8 := by
  have hstart : 64 + (56 - 8 * k) = 120 - 8 * k := by omega
  rw [slotByte, hiLimb, extractLsb'_extractLsb'_of_le v (by omega), hstart]

/-- The low limb is the last eight. -/
theorem slotByte_loLimb (v : Int128) (k : Nat) : slotByte (loLimb v) k = v.extractLsb' (120 - 8 * (k + 8)) 8 := by
  have hstart : 0 + (56 - 8 * k) = 120 - 8 * (k + 8) := by omega
  rw [slotByte, loLimb, extractLsb'_extractLsb'_of_le v (by omega), hstart]

/-- The LO slot of a register is eight bytes above its HI slot (20_memory.md R42). -/
theorem hiSlot_offset_add (X : Reg) (k : Nat) :
    X.hiSlot.offset + BitVec.ofNat 7 (k + 8) = X.loSlot.offset + BitVec.ofNat 7 k := by
  have h : X.loSlot.offset = X.hiSlot.offset + BitVec.ofNat 7 8 := by cases X <;> rfl
  rw [h, BitVec.ofNat_add, BitVec.add_assoc, BitVec.add_comm (BitVec.ofNat 7 k)]

/-- Byte `k` of a register's sixteen bytes in the window (20_memory.md R43). -/
theorem windowByte_reg (X : Reg) {k : Nat} (hk : k < 16) (s : State) :
    windowByte (X.hiSlot.offset + BitVec.ofNat 7 k) s = some ((regValue X s).extractLsb' (120 - 8 * k) 8) := by
  by_cases hHi : k < 8
  · rw [windowByte_dataSlot _ hHi, ← hiLimb_regValue, slotByte_hiLimb _ hHi]
  · obtain ⟨j, rfl⟩ : ∃ j, k = j + 8 := ⟨k - 8, by omega⟩
    have hj : j < 8 := by omega
    rw [hiSlot_offset_add, windowByte_dataSlot _ hj, ← loLimb_regValue, slotByte_loLimb]

/-- Settles O13, by the bytes of a register at its HI slot's offset. -/
theorem registerBytesAreBigEndian : Obligations.RegisterBytesAreBigEndian := by
  intro s k hk
  refine ⟨fun hk8 => windowByte_status hk8 s, ?_, ?_, ?_, ?_⟩
  · rw [← BitVec.zero_add (BitVec.ofNat 7 k)]
    exact windowByte_reg .A hk s
  · rw [BitVec.ofNat_add]
    exact windowByte_reg .B hk s
  · rw [BitVec.ofNat_add]
    exact windowByte_reg .Q hk s
  · rw [BitVec.ofNat_add]
    exact windowByte_reg .R hk s

/-! ### Bus addresses -/

theorem coreBase_mod : Config.coreBase % 128 = 0 := Nat.mul_mod_right 128 _

theorem inWindow_iff {addr : Nat} : inWindow addr = true ↔ Config.coreBase ≤ addr ∧ addr < Config.coreBase + 128 := by
  simp only [inWindow, Bool.and_eq_true, decide_eq_true_eq]
  omega

/-- An address in the window has its offset in bits 6:0 (20_memory.md R41). -/
theorem windowOffset_toNat {addr : Nat} (h : inWindow addr = true) :
    (windowOffset addr).toNat = addr - Config.coreBase ∧ (windowOffset addr).toNat = addr % 128 := by
  obtain ⟨hlo, hhi⟩ := inWindow_iff.mp h
  have hbase := coreBase_mod
  rw [windowOffset, BitVec.toNat_ofNat]
  omega

/-- A bus access outside the window is not the block's. -/
theorem present_of_not_inWindow {addr : Nat} (h : ¬ inWindow addr = true) (n : Nat) (bytes : List Byte) (s : State) :
    present (.memRead addr n) s = s ∧ present (.memWrite addr bytes) s = s := by
  simp [present, windowAction, h]

/-- Settles O14, by cases on whether the address is in the window. -/
theorem windowDecodesLowAddressBits : Obligations.WindowDecodesLowAddressBits := by
  refine ⟨coreBase_mod, fun addr n bytes s => ⟨fun hlo hhi => ?_, fun hout => ?_⟩⟩
  · have hin := inWindow_iff.mpr ⟨hlo, hhi⟩
    obtain ⟨hoff, hlow⟩ := windowOffset_toNat hin
    refine ⟨hoff, hlow, if_pos hin, _, if_pos hin, fun hlen => ?_⟩
    rw [← Option.some_get (isSome_wordOfBytes hlen)]
    rfl
  · exact present_of_not_inWindow (by rw [inWindow_iff]; omega) n bytes s

end Sys2Proof.Machine
end

section
/-! Host accesses: what the access table of 20_memory.md R45 to R47 admits, what an admitted read returns (R48), what a write to
an operand slot does (R49), and the order in which accesses are done (R52). -/

namespace Sys2Proof.Machine

/-! ### Which accesses are admitted -/

/-- A read returns the slot's value, where there is one to return, and otherwise is an ACCESS_ERROR (20_memory.md R47, R48). -/
theorem transact_read (off : BitVec 7) (width : Nat) (s : State) :
    transact (.read off width) s =
      (readValue (.read off width) s).elim (.fault .accessError) fun v => .next (returnRead v s) := by
  simp only [transact, readValue]
  cases accessSlot off width with
  | none => rfl
  | some S => cases S <;> rfl

/-- The reads that return a value are those that the access table admits. -/
theorem isSome_readValue (off : BitVec 7) (width : Nat) (s : State) :
    (readValue (.read off width) s).isSome = (HostAction.read off width).wf := by
  rw [read_wf_eq, readValue]
  cases accessSlot off width with
  | none => rfl
  | some S => cases S <;> rfl

/-- A write that the access table does not admit is an ACCESS_ERROR. -/
theorem transact_write_of_not_wf {off : BitVec 7} {width : Nat} {v : Word} (h : (HostAction.write off width v).wf = false)
    (s : State) : transact (.write off width v) s = .fault .accessError := by
  rw [write_wf_eq] at h
  simp only [transact]
  cases ha : accessSlot off width with
  | none => rfl
  | some S =>
    rw [ha] at h
    cases S with
    | data d => exact if_neg (by simpa [writable] using h)
    | cmd => cases h
    | status | reserved => rfl

/-- A write that the access table admits completes. -/
theorem transact_write_of_wf {off : BitVec 7} {width : Nat} {v : Word} (h : (HostAction.write off width v).wf = true)
    (s : State) : ∃ t, transact (.write off width v) s = .next t := by
  rw [write_wf_eq] at h
  simp only [transact]
  cases ha : accessSlot off width with
  | none =>
    rw [ha] at h
    cases h
  | some S =>
    rw [ha] at h
    cases S with
    | data d => exact ⟨_, if_pos h⟩
    | cmd => exact runCommand_next v s
    | status | reserved => cases h

/-- An action that the access table does not admit is an ACCESS_ERROR (20_memory.md R47). -/
theorem transact_of_not_wf {a : HostAction} (h : a.wf = false) (s : State) : transact a s = .fault .accessError := by
  cases a with
  | read off width =>
    have hnone : readValue (.read off width) s = none := by
      rw [← Option.not_isSome_iff_eq_none, isSome_readValue, h]
      exact Bool.false_ne_true
    rw [transact_read, hnone]
    rfl
  | write off width v => exact transact_write_of_not_wf h s
  | reset => cases h

/-- An admitted action completes (20_memory.md R46). -/
theorem transact_of_wf {a : HostAction} (h : a.wf = true) (s : State) : ∃ t, transact a s = .next t := by
  cases a with
  | read off width =>
    obtain ⟨v, hv⟩ : ∃ v, readValue (.read off width) s = some v := by
      rw [← Option.isSome_iff_exists, isSome_readValue, h]
    exact ⟨returnRead v s, by rw [transact_read, hv]; rfl⟩
  | write off width v => exact transact_write_of_wf h s
  | reset => exact ⟨_, rfl⟩

/-- Settles O9: a step performs the oldest pending action, which completes exactly if the access table admits it. -/
theorem accessErrorExactlyWhereNotAllowed : Obligations.AccessErrorExactlyWhereNotAllowed := by
  intro s a rest hp
  rw [step_of_pending hp]
  exact ⟨fun h => transact_of_not_wf h _, fun h => transact_of_wf h _⟩

/-! ### Reads -/

theorem readValue_dataSlot (d : DataSlot) (s : State) : readValue (.read d.offset 8) s = some (getSlot d s) := by
  simp [readValue, slotValue]

theorem readValue_status (s : State) : readValue (.read 0x48 8) s = some s.status := by
  simp [readValue, slotValue]

/-- What a slot holds does not rest on what is pending or was returned. -/
@[simp] theorem slotValue_withPending (S : Slot) (l : List HostAction) (s : State) :
    slotValue S { s with pending := l } = slotValue S s := by
  cases S <;> simp [slotValue]

@[simp] theorem slotValue_returnRead (S : Slot) (v : Word) (s : State) :
    slotValue S (returnRead v s) = slotValue S s := by
  cases S <;> simp [slotValue]

@[simp] theorem readValue_withPending (a : HostAction) (l : List HostAction) (s : State) :
    readValue a { s with pending := l } = readValue a s := by
  cases a <;> simp [readValue]

@[simp] theorem readValue_returnRead (a : HostAction) (v : Word) (s : State) :
    readValue a (returnRead v s) = readValue a s := by
  cases a <;> simp [readValue]

/-- A step on a read that returns a value appends it to what was returned and does nothing else (20_memory.md R48). -/
theorem step_read {off : BitVec 7} {width : Nat} {rest : List HostAction} {s : State} {v : Word}
    (hp : s.pending = .read off width :: rest) (hv : readValue (.read off width) s = some v) :
    step s = .next (returnRead v { s with pending := rest }) := by
  rw [step_of_pending hp, transact_read, readValue_withPending, hv]
  rfl

/-- A read that completes has a value to return. -/
theorem readValue_of_step_next {off : BitVec 7} {width : Nat} {rest : List HostAction} {s t : State}
    (hp : s.pending = .read off width :: rest) (h : step s = .next t) : ∃ v, readValue (.read off width) s = some v := by
  cases hv : readValue (.read off width) s with
  | some v => exact ⟨v, rfl⟩
  | none =>
    rw [step_of_pending hp, transact_read, readValue_withPending, hv] at h
    cases h

theorem busResponse_of_readValue {a : HostAction} {s : State} {v : Word} (h : readValue a s = some v) :
    busResponse a s = .readData (bytesOfWord v) := by
  simp only [busResponse, h]

/-- The strict step stops before a read of a data slot whose mark is clear (10_state.md R36). -/
theorem strictStep_read_unwritten {d : DataSlot} {rest : List HostAction} {s : State}
    (hp : s.pending = .read d.offset 8 :: rest) (hclear : isWritten d s = false) : strictStep s = .fault .unwritten :=
  strictStep_eq_fault_unwritten_iff.mpr
    (readsUnwritten_iff.mpr ⟨_, rest, hp, d, mem_slotsRead_iff.mpr (.inl rfl), hclear⟩)

/-- A plain run that answers a state answered one in its first step. -/
theorem step_next_of_plainRun {k : Nat} {s t : State} (h : plainRun (k + 1) s = .next t) :
    ∃ u, step s = .next u ∧ plainRun k u = .next t := by
  simp only [plainRun] at h
  split at h
  · next u hu => exact ⟨u, hu, h⟩
  all_goals cases h

/-- Two reads of one offset, one after the other, return one value twice (20_memory.md R48). -/
theorem plainRun_two_reads {off : BitVec 7} {width : Nat} {rest : List HostAction} {s : State} {v : Word}
    (hp : s.pending = .read off width :: .read off width :: rest) (hv : readValue (.read off width) s = some v) :
    plainRun 2 s = .next (returnRead v (returnRead v { s with pending := rest })) := by
  rw [plainRun_succ_of_next 1 (step_read hp hv), plainRun_succ_of_next 0 (step_read rfl (by simpa using hv))]
  rfl

/-- Settles O10: what a read returns is its slot's value, which the read leaves as it was. -/
theorem readReturnsSlotAndChangesNothing : Obligations.ReadReturnsSlotAndChangesNothing := by
  intro s rest
  refine ⟨fun d hp => ?_, fun hp => ?_, fun off t hp hrun => ?_⟩
  · have hv := readValue_dataSlot d s
    exact ⟨step_read hp hv, busResponse_of_readValue hv, strictStep_read_unwritten hp⟩
  · have hv := readValue_status s
    exact ⟨step_read hp hv, busResponse_of_readValue hv⟩
  · obtain ⟨u, hu, -⟩ := step_next_of_plainRun hrun
    obtain ⟨v, hv⟩ := readValue_of_step_next hp hu
    cases (plainRun_two_reads hp hv).symm.trans hrun
    exact ⟨v, by simp [returnRead]⟩

/-! ### Writes to operand slots -/

theorem isOperand_iff_mem {d : DataSlot} : d.isOperand = true ↔ d ∈ [DataSlot.aHi, .aLo, .bHi, .bLo] := by
  cases d <;> decide

/-- A step on a write to an operand slot sets the slot (20_memory.md R49). -/
theorem step_write_operand {d : DataSlot} {v : Word} {rest : List HostAction} {s : State} (hd : d.isOperand = true)
    (hp : s.pending = .write d.offset 8 v :: rest) : step s = .next (setSlot d v { s with pending := rest }) := by
  simp [step_of_pending hp, transact, hd]

/-- Settles O11, by the laws of a write to a slot. -/
theorem operandWriteSetsSlotAndMark : Obligations.OperandWriteSetsSlotAndMark := by
  intro s d v rest hd hp
  refine ⟨_, step_write_operand (isOperand_iff_mem.mpr hd) hp, ?_, ?_, fun e he => ⟨?_, ?_⟩, ?_, ?_, ?_⟩
  · rw [getSlot_setSlot, if_pos rfl]
  · rw [isWritten_setSlot, if_pos rfl]
  · rw [getSlot_setSlot, if_neg he, getSlot_withPending]
  · rw [isWritten_setSlot, if_neg he, isWritten_withPending]
  all_goals simp

/-! ### The order of accesses -/

/-- An action leaves the host's queue alone: the step has taken the action off it. -/
theorem transact_pending {a : HostAction} {s t : State} (h : transact a s = .next t) : t.pending = s.pending := by
  obtain ⟨d, -, rfl⟩ | ⟨off, -, -, rfl⟩ | ⟨d, v, -, -, rfl⟩ | ⟨w, i, -, -, hx⟩ | ⟨w, e, -, -, rfl⟩ | ⟨-, rfl⟩ :=
    transact_cases h
  case inr.inr.inr.inl => exact (exec_host_side hx).1
  all_goals simp

/-- An action that the host may put between a write to the operand slot `d` and a read of it: admitted, no reset and no other
write to `d`. -/
def KeepsOperand (d : DataSlot) (a : HostAction) : Prop := a.wf = true ∧ a ≠ .reset ∧ ∀ v, a ≠ .write d.offset 8 v

/-- A step on such an action completes, takes it off the queue and keeps the slot. -/
theorem step_keeps_operand {d : DataSlot} {a : HostAction} {rest : List HostAction} {s : State} (hd : d.isOperand = true)
    (ha : KeepsOperand d a) (hp : s.pending = a :: rest) :
    ∃ t, step s = .next t ∧ t.pending = rest ∧ getSlot d t = getSlot d s := by
  obtain ⟨hwf, hreset, hwrite⟩ := ha
  obtain ⟨t, ht⟩ := transact_of_wf hwf { s with pending := rest }
  have hs : step s = .next t := (step_of_pending hp).trans ht
  obtain ⟨hslot, -⟩ := step_frame hp hs hreset (fun _ => hwrite) fun i _ hmem =>
    absurd hmem (not_mem_writeSet_of_isOperand hd i)
  exact ⟨t, hs, transact_pending ht, hslot⟩

/-- A run of such actions, by induction on their list, completes, takes them off the queue and keeps the slot. -/
theorem plainRun_keeps_operand {d : DataSlot} {rest : List HostAction} (hd : d.isOperand = true) (mid : List HostAction) :
    ∀ s : State, (∀ a ∈ mid, KeepsOperand d a) → s.pending = mid ++ rest →
      ∃ t, plainRun mid.length s = .next t ∧ t.pending = rest ∧ getSlot d t = getSlot d s := by
  induction mid with
  | nil => exact fun s _ hp => ⟨s, rfl, hp, rfl⟩
  | cons a mid ih =>
    intro s hmid hp
    obtain ⟨ha, hmid⟩ := List.forall_mem_cons.mp hmid
    obtain ⟨u, hu, hpu, hslotu⟩ := step_keeps_operand hd ha hp
    obtain ⟨t, ht, hpt, hslott⟩ := ih u hmid hpu
    exact ⟨t, (plainRun_succ_of_next _ hu).trans ht, hpt, hslott.trans hslotu⟩

/-- A plain run goes on from the state that its first part answers. -/
theorem plainRun_add_of_next {j k : Nat} : ∀ {s t : State}, plainRun j s = .next t →
    plainRun (j + k) s = plainRun k t := by
  induction j with
  | zero =>
    intro s t h
    cases h
    rw [Nat.zero_add]
  | succ j ih =>
    intro s t h
    obtain ⟨u, hu, hrun⟩ := step_next_of_plainRun h
    rw [Nat.add_right_comm, plainRun_succ_of_next _ hu, ih hrun]

/-- Settles O47: the write sets the slot, the actions between keep it, and the read returns it. -/
theorem readReturnsMostRecentWrite : Obligations.ReadReturnsMostRecentWrite := by
  intro s d v mid rest hd hp hmid
  have hoperand := isOperand_iff_mem.mpr hd
  have hwrite := step_write_operand hoperand hp
  obtain ⟨u, hrun, hpu, hslot⟩ := plainRun_keeps_operand hoperand mid
    (setSlot d v { s with pending := mid ++ .read d.offset 8 :: rest }) hmid (setSlot_pending ..)
  have hv : readValue (.read d.offset 8) u = some v := by
    rw [readValue_dataSlot, hslot, getSlot_setSlot, if_pos rfl]
  have hread : plainRun (mid.length + 2) s = .next (returnRead v { u with pending := rest }) :=
    calc plainRun (mid.length + 2) s
      _ = plainRun (mid.length + 1) _ := plainRun_succ_of_next _ hwrite
      _ = plainRun 1 u := plainRun_add_of_next hrun
      _ = .next (returnRead v { u with pending := rest }) := plainRun_succ_of_next 0 (step_read hpu hv)
  exact ⟨_, u.returned, hread, rfl, rfl⟩

end Sys2Proof.Machine
end

section
/-! Command words: the decoder and the encoder agree, the legal words are fifteen, what a word prints as, and what a write of a
legal and of an illegal word to CMD does (30_encoding.md R63 to R68, R71). -/

namespace Sys2Proof.Machine

/-! ### The legal words -/

theorem decode_eq_ok_iff {w : Word} {i : Instr} : decode w = .ok i ↔ w = encode i :=
  ⟨eq_encode_of_decode, fun h => h ▸ decode_encode i⟩

/-- Settles O1, by the two directions of the opcode map. -/
theorem decodeAgreesWithEncode : Obligations.DecodeAgreesWithEncode :=
  fun _ _ => decode_eq_ok_iff

/-- The words of the fifteen commands, in the order of the opcode map (30_encoding.md R64). -/
def legalWords : List Word := opcodeMap.map fun row => encode row.2

theorem mem_legalWords_iff {w : Word} : w ∈ legalWords ↔ ∃ i, decode w = .ok i := by
  have hrows : ∀ i, (opOf i, i) ∈ opcodeMap := by intro i; cases i <;> decide
  simp only [decode_eq_ok_iff, legalWords, List.mem_map]
  constructor
  · rintro ⟨row, -, rfl⟩
    exact ⟨row.2, rfl⟩
  · rintro ⟨i, rfl⟩
    exact ⟨(opOf i, i), hrows i, rfl⟩

/-- The words that R63 calls legal are the words of the opcode map: with RSV 0, a word is its OP. -/
theorem legalWord_iff_mem {w : Word} : LegalWord w ↔ w ∈ legalWords := by
  have hops : legalOps = legalWords.map BitVec.toNat := by decide
  constructor
  · rintro ⟨hrsv, hop⟩
    have hw : w.toNat % 256 = w.toNat := by omega
    rw [hw, hops] at hop
    obtain ⟨v, hv, heq⟩ := List.mem_map.mp hop
    exact BitVec.eq_of_toNat_eq heq ▸ hv
  · intro h
    obtain ⟨i, hi⟩ := mem_legalWords_iff.mp h
    exact eq_encode_of_decode hi ▸ legalWord_encode i

theorem exists_decode_iff_legalWord {w : Word} : (∃ i, decode w = .ok i) ↔ LegalWord w :=
  mem_legalWords_iff.symm.trans legalWord_iff_mem.symm

/-- Settles O2, with the words of the opcode map as the list. -/
theorem legalWordsAreExactlyFifteen : Obligations.LegalWordsAreExactlyFifteen :=
  ⟨fun _ => exists_decode_iff_legalWord, legalWords, rfl, by decide, fun _ => mem_legalWords_iff⟩

theorem decode_eq_error_of_not_legalWord {w : Word} (h : ¬ LegalWord w) : ∃ e, decode w = .error e := by
  cases hd : decode w with
  | ok i => exact absurd (exists_decode_iff_legalWord.mp ⟨i, hd⟩) h
  | error e => exact ⟨e, rfl⟩

/-- Settles O3: each of the five words is the word of its command. -/
theorem opcodeMapRowsDecode : Obligations.OpcodeMapRowsDecode :=
  ⟨decode_encode .add, decode_encode .cmpu, decode_encode .mulu64, decode_encode .mul, decode_encode .divrem⟩

/-! ### A write to CMD -/

/-- A write of the word of a command to CMD runs the command (30_encoding.md R68). -/
theorem transact_cmd_of_decode {w : Word} {i : Instr} (h : decode w = .ok i) (s : State) :
    transact (.write 0x40 8 w) s = exec i s := by
  simp [transact, runCommand, h]

/-- A write of an illegal word to CMD raises ILL (60_exceptions.md R152). -/
theorem transact_cmd_of_not_legalWord {w : Word} (h : ¬ LegalWord w) (s : State) :
    transact (.write 0x40 8 w) s = .next (raise .ill s) := by
  obtain ⟨e, he⟩ := decode_eq_error_of_not_legalWord h
  simp [transact, runCommand, he]

/-- A fetched word of 64 bits is written to CMD as it is, before what was pending. -/
theorem step_withFetchWord (s : State) (w : Word) : step (s.withFetchWord 64 w.toNat) = transact (.write 0x40 8 w) s := by
  have hw : BitVec.ofNat 64 (w.toNat % 2 ^ 64) = w := by
    rw [Nat.mod_eq_of_lt w.isLt, BitVec.ofNat_toNat, BitVec.setWidth_eq]
  rw [State.withFetchWord, hw, step_of_pending rfl]
  rfl

/-- Settles O6: both steps perform the write of the word to CMD. -/
theorem stepRunsDecodedCommand : Obligations.StepRunsDecodedCommand := by
  intro s w rest i h
  refine ⟨fun hp => ?_, ?_⟩
  · rw [step_of_pending hp, transact_cmd_of_decode h]
  · rw [step_withFetchWord, transact_cmd_of_decode h]

/-- Settles O7: no legal word has an RSV other than 0 or one of the OP values that R65 lists. -/
theorem illegalWordRaisesIllOnly : Obligations.IllegalWordRaisesIllOnly := by
  intro s w rest hp hill
  have hillegal : ¬ LegalWord w := by
    rintro ⟨hrsv, hop⟩
    simp only [legalOps, List.mem_cons, List.not_mem_nil, or_false] at hop
    omega
  rw [step_of_pending hp, transact_cmd_of_not_legalWord hillegal]
  rfl

/-! ### Disassembly -/

/-- Hexadecimal digit `k` of a word, most significant first, is the value of bits `63-4k : 60-4k` (30_encoding.md R71). -/
theorem toNat_extractLsb'_nibble (w : Word) {k : Nat} (hk : k < 16) :
    (w.extractLsb' (60 - 4 * k) 4).toNat = w.toNat / 16 ^ (15 - k) % 16 := by
  have hpow : 2 ^ (60 - 4 * k) = 16 ^ (15 - k) := by
    rw [show 60 - 4 * k = 4 * (15 - k) by omega, pow_mul]
    rfl
  rw [BitVec.extractLsb'_toNat, Nat.shiftRight_eq_div_pow, hpow]

theorem getElem?_hexDigits {n : Nat} (h : n < 16) : "0123456789abcdef".toList[n]? = some (hexDigit n) := by
  revert n
  decide

theorem disassemble_of_not_legalWord {w : Word} (h : ¬ LegalWord w) : disassemble w = "cmd.raw 0x" ++ hex16 w := by
  obtain ⟨e, he⟩ := decode_eq_error_of_not_legalWord h
  simp only [disassemble, he]

/-- Settles O5: the digits of the raw form are those of `hex16`. -/
theorem disassemblyPrintsMnemonicOrRaw : Obligations.DisassemblyPrintsMnemonicOrRaw := by
  refine ⟨fun w => ⟨fun i hi => ?_, fun hillegal => ?_⟩, ?_⟩
  · simp only [disassemble, decode_eq_ok_iff.mpr hi]
  · refine ⟨_, disassemble_of_not_legalWord hillegal, by simp, fun k hk => ?_⟩
    rw [toNat_extractLsb'_nibble w hk, getElem?_hexDigits (Nat.mod_lt _ (by decide)), List.getElem?_map,
      List.getElem?_range hk]
    rfl
  · simp only [mnemonic, and_self]

end Sys2Proof.Machine
end

section
/-! The host's pseudo-instructions (30_encoding.md R70): their lines read a register, write a register, or run a
command. -/

namespace Sys2Proof.Machine

/-! ### Loads and moves -/

/-- Two `rd` lines of a register's slots return its limbs and bind their variables. -/
theorem performLines_rd_reg (Y : Reg) (hi lo : String) (rest : List Line) (vars : HostVars) (s : State) :
    performLines (.rd (.data Y.hiSlot) hi :: .rd (.data Y.loSlot) lo :: rest) vars s =
      performLines rest ((lo, loLimb (regValue Y s)) :: (hi, hiLimb (regValue Y s)) :: vars)
        (returnRead (loLimb (regValue Y s)) (returnRead (hiLimb (regValue Y s)) s)) := by
  rw [performLines_cons_of_next (performLine_rd_data ..), performLines_cons_of_next (performLine_rd_data ..)]
  simp only [getSlot_returnRead, hiLimb_regValue, loLimb_regValue]

/-- Two `wr` lines of a value's limbs to an operand register load it. -/
theorem performLines_wr_reg {X : Reg} {hi lo : Source} {v : Int128} {vars : HostVars} (hX : X.isOperand = true)
    (hhi : hi.value vars = some (hiLimb v)) (hlo : lo.value vars = some (loLimb v)) (s : State) :
    ∃ t, performLines [.wr X.hiSlot hi, .wr X.loSlot lo] vars s = .next (vars, t) ∧ WroteReg X v s t ∧
      t.returned = s.returned := by
  obtain ⟨hHi, hLo⟩ := isOperand_slots hX
  refine ⟨_, ?_, wroteReg_setSlots X v s, by simp⟩
  rw [performLines_cons_of_next (performLine_wr s hHi hhi), performLines_cons_of_next (performLine_wr _ hLo hlo)]
  rfl

/-- A register written after a read is a register written. -/
theorem wroteReg_of_returnRead {X : Reg} {v : Int128} {x : Word} {s t : State} (h : WroteReg X v (returnRead x s) t) :
    WroteReg X v s t := by
  simpa only [WroteReg, regValue_returnRead, isWritten_returnRead, returnRead_status, returnRead_pending] using h

/-- The immediate of `lds`: the low limb's sign fills the high limb. -/
theorem ofInt_toInt_eq_join (x : Word) :
    BitVec.ofInt 128 x.toInt = join (if x.getLsbD 63 then 0xFFFFFFFFFFFFFFFF else 0) x := by
  apply BitVec.eq_of_toInt_eq
  have hvalue : (BitVec.ofInt 128 x.toInt).toInt = x.toInt := BitVec.toInt_signExtend_of_le (x := x) (by decide)
  have hsign : x.getLsbD 63 = x.msb := rfl
  have hones : (0xFFFFFFFFFFFFFFFF : Word).toInt = -1 := by decide
  have hzero : (0 : Word).toInt = 0 := by decide
  rw [hvalue, toInt_join, signedValue, BitVec.toInt_eq_msb_cond, hsign]
  cases x.msb with
  | true =>
    simp only [if_true, hones]
    omega
  | false =>
    simp only [Bool.false_eq_true, if_false, hzero]
    omega

/-- The immediate of `ldu`: the high limb is 0. -/
theorem ofNat_toNat_eq_join (x : Word) : BitVec.ofNat 128 x.toNat = join 0 x := by
  apply BitVec.eq_of_toNat_eq
  have := x.isLt
  have hzero : (0 : Word).toNat = 0 := rfl
  rw [toNat_join, unsignedValue, BitVec.toNat_ofNat, hzero]
  omega

/-- Settles O54: each load writes the limbs of its value, and `mov` writes what it has read. -/
theorem pseudoInstructionsMoveValues : Obligations.PseudoInstructionsMoveValues := by
  intro s vars X Y v x hX
  refine ⟨performLines_wr_reg hX rfl rfl s, ?_, ?_, fun _ => ?_⟩
  · rw [ofInt_toInt_eq_join]
    exact performLines_wr_reg hX (by rw [hiLimb_join]; rfl) (by rw [loLimb_join]; rfl) s
  · rw [ofNat_toNat_eq_join]
    exact performLines_wr_reg hX (by rw [hiLimb_join]; rfl) (by rw [loLimb_join]; rfl) s
  · obtain ⟨t, hrun, hwrote, hret⟩ := performLines_wr_reg (hi := .var "t1") (lo := .var "t0") (v := regValue Y s)
      (vars := ("t0", loLimb (regValue Y s)) :: ("t1", hiLimb (regValue Y s)) :: vars) hX rfl rfl
      (returnRead (loLimb (regValue Y s)) (returnRead (hiLimb (regValue Y s)) s))
    refine ⟨_, t, (performLines_rd_reg ..).trans hrun, wroteReg_of_returnRead (wroteReg_of_returnRead hwrote), ?_⟩
    simpa using hret

/-! ### Reading back -/

theorem lookup_cons_of_ne {n m : String} (h : n ≠ m) (v : Word) (vars : HostVars) :
    ((m, v) :: vars).lookup n = vars.lookup n := by
  rw [List.lookup_cons, beq_false_of_ne h]

/-- Settles O55: `get` is the two reads of its register, and its two names differ. -/
theorem getBindsRegisterLimbs : Obligations.GetBindsRegisterLimbs := by
  intro s vars Y name
  have hnames : name ++ ".hi" ≠ name ++ ".lo" := by simp
  have hstate : returnRead (loLimb (regValue Y s)) (returnRead (hiLimb (regValue Y s)) s) =
      { s with returned := s.returned ++ [hiLimb (regValue Y s), loLimb (regValue Y s)] } := by
    simp [returnRead]
  have hrun := performLines_rd_reg Y (name ++ ".hi") (name ++ ".lo") [] vars s
  rw [hstate] at hrun
  refine ⟨_, hrun, ?_, List.lookup_cons_self, fun n hhi hlo => ?_⟩
  · rw [lookup_cons_of_ne hnames, List.lookup_cons_self]
  · rw [lookup_cons_of_ne hlo, lookup_cons_of_ne hhi]

/-- STATUS after a command: 1 for DIVREM by zero and 0 otherwise (60_exceptions.md R158). -/
theorem exec_status {i : Instr} {s t : State} (h : exec i s = .next t) :
    t.status = if i = .divrem ∧ opB s = 0 then 1 else 0 := by
  split
  · next hdz =>
    obtain ⟨rfl, hb⟩ := hdz
    cases (exec_divrem_of_eq_zero hb).symm.trans h
    rfl
  · next hok => exact (exec_completes h hok).1

/-- `cmd` runs its command and binds nothing. -/
theorem performLine_cmd {i : Instr} {s t : State} (h : exec i s = .next t) (vars : HostVars) :
    performLine (.cmd i) vars s = .next (vars, t) := by
  have ht : transact (.write cmdOffset 8 (encode i)) s = .next t := (transact_cmd_of_decode (decode_encode i) s).trans h
  simp only [performLine, Line.action, ht, Line.bind]

/-- Settles O56: `run` is the command and a read of STATUS. -/
theorem runPerformsCommandAndBindsStatus : Obligations.RunPerformsCommandAndBindsStatus := by
  intro s vars i st
  obtain ⟨t, h⟩ := exec_next i s
  have hlines : performLines (Pseudo.run i st).expand vars s = .next ((st, t.status) :: vars, returnRead t.status t) :=
    calc performLines [.cmd i, .rd .status st] vars s
      _ = performLines [.rd .status st] vars t := performLines_cons_of_next (performLine_cmd h vars)
      _ = .next ((st, t.status) :: vars, returnRead t.status t) := performLines_cons_of_next (performLine_rd_status ..)
  have hret : returnRead t.status t = { t with returned := s.returned ++ [t.status] } := by
    rw [returnRead, (exec_host_side h).2]
  rw [hret] at hlines
  have hstatus := exec_status h
  exact ⟨_, t, h, hlines, hstatus ▸ List.lookup_cons_self, hstatus, fun n hn => lookup_cons_of_ne hn ..⟩

end Sys2Proof.Machine
end

section
/-! The limb circuits of the adder family (40_adder.md R81 to R83) are the addition, subtraction and negation of 128-bit
vectors. The laws of the family (R96) and the results of its commands follow from these three equations. -/

namespace Sys2Proof.Machine

/-! ### Carries and borrows -/

theorem ofBool_decide_eq_one_iff (p : Prop) [Decidable p] : BitVec.ofBool (decide p) = 1 ↔ p :=
  (BitVec.ofBool_eq_iff_eq (b' := true)).trans decide_eq_true_iff

theorem ofBool_decide_toNat (p : Prop) [Decidable p] : (BitVec.ofBool (decide p)).toNat = if p then 1 else 0 := by
  rw [BitVec.toNat_ofBool, Bool.toNat, Bool.cond_decide]

/-- The carry test is exact: the low limbs' sum is below the first of them exactly if it has wrapped. -/
theorem carryOut_eq (x y : Word) : carryOut (x + y) x = BitVec.ofBool (decide (2 ^ 64 ≤ x.toNat + y.toNat)) := by
  have hwrap : (x + y).toNat < x.toNat ↔ 2 ^ 64 ≤ x.toNat + y.toNat := by
    rw [BitVec.toNat_add]
    omega
  rw [carryOut, BitVec.ult_eq_decide, decide_eq_decide.mpr hwrap]

theorem carryOut_toNat (x y : Word) :
    (carryOut (x + y) x).toNat = if 2 ^ 64 ≤ x.toNat + y.toNat then 1 else 0 := by
  rw [carryOut_eq, ofBool_decide_toNat]

theorem borrowOut_toNat (x y : Word) : (borrowOut x y).toNat = if x.toNat < y.toNat then 1 else 0 := by
  rw [borrowOut, BitVec.ult_eq_decide, ofBool_decide_toNat]

theorem negCarry_toNat (l : Word) : (negCarry l).toNat = if l.toNat = 0 then 1 else 0 := by
  have hzero : (l == 0) = decide (l.toNat = 0) := decide_eq_decide.mpr BitVec.toNat_eq
  rw [negCarry, hzero, ofBool_decide_toNat]

/-! ### The circuits -/

theorem add128_eq_add (a b : Int128) : add128 a b = a + b := by
  apply BitVec.eq_of_toNat_eq
  simp only [add128, toNat_join, unsignedValue, BitVec.toNat_add, BitVec.toNat_setWidth, carryOut_toNat, hiLimb_toNat,
    loLimb_toNat]
  split <;> omega

theorem sub128_eq_sub (a b : Int128) : sub128 a b = a - b := by
  apply BitVec.eq_of_toNat_eq
  simp only [sub128, toNat_join, unsignedValue, BitVec.toNat_sub, BitVec.toNat_setWidth, borrowOut_toNat, hiLimb_toNat,
    loLimb_toNat]
  split <;> omega

theorem neg128_eq_neg (a : Int128) : neg128 a = -a := by
  apply BitVec.eq_of_toNat_eq
  have := a.isLt
  have hone : (1 : Word).toNat = 1 := rfl
  simp only [neg128, toNat_join, unsignedValue, BitVec.toNat_add, BitVec.toNat_not, BitVec.toNat_neg,
    BitVec.toNat_setWidth, negCarry_toNat, hiLimb_toNat, loLimb_toNat, hone]
  split <;> omega

/-- Settles O15: the adder is vector addition, whose unsigned and signed readings are the library's. -/
theorem limbAdderIsModularAddition : Obligations.LimbAdderIsModularAddition := by
  intro a b
  rw [add128_eq_add, carryOut_eq, ofBool_decide_eq_one_iff]
  refine ⟨?_, ?_, Iff.rfl⟩
  · simp only [BitVec.ofNat_add, BitVec.ofNat_toNat, BitVec.setWidth_eq]
  · simp only [BitVec.ofInt_add, BitVec.ofInt_toInt]

theorem ofInt_sub {w : Nat} (x y : Int) : BitVec.ofInt w (x - y) = BitVec.ofInt w x - BitVec.ofInt w y := by
  rw [Int.sub_eq_add_neg, BitVec.ofInt_add, BitVec.ofInt_neg, BitVec.sub_eq_add_neg]

/-- Settles O16: the subtractor is vector subtraction, and a difference of limbs that wraps exceeds the first limb. -/
theorem limbSubtractorIsModularSubtraction : Obligations.LimbSubtractorIsModularSubtraction := by
  intro a b
  have hwrap : (loLimb a).toNat < (loLimb b).toNat ↔ (loLimb a).toNat < (loLimb a - loLimb b).toNat := by
    rw [BitVec.toNat_sub]
    omega
  rw [sub128_eq_sub, borrowOut, BitVec.ult_eq_decide, ofBool_decide_eq_one_iff]
  refine ⟨?_, ?_, hwrap⟩
  · simp only [ofInt_sub, BitVec.ofInt_natCast, BitVec.ofNat_toNat, BitVec.setWidth_eq]
  · simp only [ofInt_sub, BitVec.ofInt_toInt]

/-- Settles O17: the negator, the adder and the subtractor are the vector operations. -/
theorem limbNegatorIsNegation : Obligations.LimbNegatorIsNegation := by
  refine ⟨fun a => ?_, by decide⟩
  rw [neg128_eq_neg, add128_eq_add, sub128_eq_sub]
  refine ⟨BitVec.neg_eq_not_add a, ?_, (BitVec.zero_sub a).symm⟩
  rw [BitVec.ofInt_neg, BitVec.ofInt_toInt]

/-- Settles O18: the laws of vector arithmetic; the signed value of a sum is the balanced remainder of the true sum. -/
theorem adderFamilyLaws : Obligations.AdderFamilyLaws := by
  refine ⟨fun x y => ?_, by decide⟩
  simp only [add128_eq_add, sub128_eq_sub, neg128_eq_neg, BitVec.toInt_add]
  refine ⟨BitVec.add_comm x y, BitVec.sub_eq_add_neg x y, BitVec.neg_neg, Int.dvd_bmod_sub_self, ?_⟩
  rw [Int.bmod_eq_iff (by decide)]
  omega

end Sys2Proof.Machine
end

section
/-! What the twelve commands of the adder family write to Q, in terms of the unsigned and signed values of A and B
(40_adder.md R84 to R95). -/

namespace Sys2Proof.Machine

/-- A command of one result leaves in Q what is known of its primary result, and changes nothing else. -/
theorem exec_writes_primaryResult {i : Instr} {s : State} {P : Int128 → Prop} (hi : i ≠ .divrem)
    (h : P (primaryResult i (opA s) (opB s))) : ∃ t q, exec i s = .next t ∧ WroteQ q s t ∧ P q :=
  ⟨_, _, exec_of_ne_divrem hi s, completeQ_wroteQ _ s, h⟩

/-! ### Sums and differences -/

theorem add128_toNat (a b : Int128) : (add128 a b).toNat = (a.toNat + b.toNat) % 2 ^ 128 := by
  rw [add128_eq_add, BitVec.toNat_add]

theorem sub128_toNat (a b : Int128) : ((sub128 a b).toNat : Int) = ((a.toNat : Int) - b.toNat) % 2 ^ 128 := by
  rw [sub128_eq_sub, BitVec.toNat_sub]
  omega

theorem neg128_toNat (a : Int128) : ((neg128 a).toNat : Int) = -(a.toNat : Int) % 2 ^ 128 := by
  rw [neg128_eq_neg, BitVec.toNat_neg]
  omega

theorem neg128_neg128 (a : Int128) : neg128 (neg128 a) = a := by
  rw [neg128_eq_neg, neg128_eq_neg, BitVec.neg_neg]

/-- The fixed points of negation (40_adder.md R86). -/
theorem neg128_eq_self_iff (a : Int128) : neg128 a = a ↔ a.toNat = 0 ∨ a.toNat = 2 ^ 127 := by
  rw [BitVec.toNat_eq, neg128_eq_neg, BitVec.toNat_neg]
  omega

/-- Settles O19: ADD is the limb adder on A and B. -/
theorem addWritesWrappedSum : Obligations.AddWritesWrappedSum := by
  refine ⟨decode_encode .add, fun s => exec_writes_primaryResult (by decide) ?_⟩
  rw [← opA_toNat, ← opB_toNat]
  exact add128_toNat ..

/-- Settles O20: SUB is the limb subtractor on A and B. -/
theorem subWritesWrappedDifference : Obligations.SubWritesWrappedDifference := by
  refine ⟨decode_encode .sub, fun s => exec_writes_primaryResult (by decide) ?_⟩
  rw [← opA_toNat, ← opB_toNat]
  exact sub128_toNat ..

/-- Settles O21: NEG is the limb negator on A, whose fixed points are 0 and 2^127. -/
theorem negWritesNegation : Obligations.NegWritesNegation := by
  refine ⟨decode_encode .neg, fun s => exec_writes_primaryResult (by decide) ?_⟩
  rw [← opA_toNat]
  exact ⟨neg128_toNat _, neg128_eq_self_iff _, neg128_neg128 _⟩

/-- Settles O23: INC is the addition of 1. -/
theorem incWritesSuccessor : Obligations.IncWritesSuccessor := by
  refine ⟨decode_encode .inc, fun s => exec_writes_primaryResult (by decide) ?_⟩
  rw [← opA_toNat]
  exact add128_toNat _ one128

/-- Settles O24: DEC is the subtraction of 1. -/
theorem decWritesPredecessor : Obligations.DecWritesPredecessor := by
  refine ⟨decode_encode .dec, fun s => exec_writes_primaryResult (by decide) ?_⟩
  rw [← opA_toNat]
  exact sub128_toNat _ one128

/-! ### Sign and magnitude -/

/-- The sign bit is set exactly for a negative value. -/
theorem isNeg_eq_msb (a : Int128) : isNeg a = a.msb := rfl

theorem isNeg_eq (a : Int128) : isNeg a = decide (a.toInt < 0) := by
  rw [isNeg_eq_msb, BitVec.msb_eq_toInt]

theorem beq_eq_decide_toInt (a b : Int128) : (a == b) = decide (a.toInt = b.toInt) :=
  decide_eq_decide.mpr BitVec.toInt_inj.symm

theorem abs128_toNat (a : Int128) : (abs128 a).toNat = a.toInt.natAbs := by
  have := a.isLt
  have habs : abs128 a = a.abs := by
    rw [abs128, isNeg_eq_msb, neg128_eq_neg, BitVec.abs_eq]
  rw [habs, BitVec.toNat_abs, BitVec.toInt_eq_msb_cond]
  split <;> omega

/-- Settles O22: the magnitude of A read as unsigned, where MIN_VALUE is no exception. -/
theorem absWritesMagnitude : Obligations.AbsWritesMagnitude := by
  refine ⟨decode_encode .abs, fun s => exec_writes_primaryResult (by decide) ?_⟩
  rw [← opA_toInt]
  exact abs128_toNat _

/-! ### Orders and predicates -/

theorem ofOrder_toInt (p q : Prop) [Decidable p] [Decidable q] :
    (ofOrder (decide p) (decide q)).toInt = if p then -1 else if q then 0 else 1 := by
  simp only [ofOrder, decide_eq_true_eq]
  split
  · rfl
  · split <;> rfl

theorem ofTruth_toNat (p : Prop) [Decidable p] : (ofTruth (decide p)).toNat = if p then 1 else 0 := by
  simp only [ofTruth, decide_eq_true_eq]
  split <;> rfl

/-- A predicate true where neither `less` nor `equal` is answers 1 exactly where the order does. -/
theorem ofTruth_eq_one_iff_ofOrder (less equal : Bool) : ofTruth (!less && !equal) = 1 ↔ ofOrder less equal = 1 := by
  cases less <;> cases equal <;> decide

theorem ofOrder_isNeg_toInt (a : Int128) : (ofOrder (isNeg a) (a == 0)).toInt = a.toInt.sign := by
  have hzero : (0 : Int128).toInt = 0 := rfl
  rw [isNeg_eq, beq_eq_decide_toInt, ofOrder_toInt, hzero]
  split
  · next h => rw [Int.sign_eq_neg_one_of_neg h]
  · split
    · next h => rw [h, Int.sign_zero]
    · rw [Int.sign_eq_one_of_pos (by omega)]

/-- Settles O25: the sign bit and the test for zero give the sign. -/
theorem sgnWritesSign : Obligations.SgnWritesSign := by
  refine ⟨decode_encode .sgn, fun s => exec_writes_primaryResult (by decide) ?_⟩
  rw [← opA_toInt]
  exact ofOrder_isNeg_toInt _

/-- Zero is not positive (40_adder.md R93). -/
theorem not_isNeg_and_ne_zero_eq (a : Int128) : (!isNeg a && a != 0) = decide (0 < a.toInt) := by
  have hzero : (0 : Int128).toInt = 0 := rfl
  rw [isNeg_eq, bne, beq_eq_decide_toInt, hzero, ← decide_not, ← decide_not, ← Bool.decide_and]
  exact decide_eq_decide.mpr (by omega)

/-- Settles O26: each predicate's test is its relation on the signed value, and ISP's is SGN's case of neither
negative nor zero. -/
theorem predicatesWriteTruth : Obligations.PredicatesWriteTruth := by
  refine ⟨decode_encode .isz, decode_encode .isn, decode_encode .isp, fun s => ?_⟩
  rw [← opA_toInt]
  refine ⟨exec_writes_primaryResult (by decide) ?_, exec_writes_primaryResult (by decide) ?_,
    exec_writes_primaryResult (by decide) ⟨?_, exec_writes_primaryResult (by decide) ?_⟩⟩
  · rw [primaryResult, beq_eq_decide_toInt]
    exact ofTruth_toNat _
  · rw [primaryResult, isNeg_eq]
    exact ofTruth_toNat _
  · rw [primaryResult, not_isNeg_and_ne_zero_eq]
    exact ofTruth_toNat _
  · exact ofTruth_eq_one_iff_ofOrder ..

/-- Settles O27: two values are equal exactly if their signed values are. -/
theorem cmpWritesSignedOrder : Obligations.CmpWritesSignedOrder := by
  refine ⟨decode_encode .cmp, fun s => exec_writes_primaryResult (by decide) ?_⟩
  rw [← opA_toInt, ← opB_toInt, primaryResult, BitVec.slt_eq_decide, beq_eq_decide_toInt]
  exact ofOrder_toInt ..

/-- Settles O28: two values are equal exactly if their unsigned values are. -/
theorem cmpuWritesUnsignedOrder : Obligations.CmpuWritesUnsignedOrder := by
  refine ⟨decode_encode .cmpu, fun s => exec_writes_primaryResult (by decide) ?_⟩
  have heq : (opA s == opB s) = decide ((opA s).toNat = (opB s).toNat) := decide_eq_decide.mpr BitVec.toNat_eq
  rw [← opA_toNat, ← opB_toNat, primaryResult, BitVec.ult_eq_decide, heq]
  exact ofOrder_toInt ..

end Sys2Proof.Machine
end

section
/-! The circuits of the multiplier family: the cross products of the 32-bit halves sum to the exact product of two limbs
(41_multiplier.md R110), and the products of the limbs sum to the product of two 128-bit vectors (R113). -/

namespace Sys2Proof.Machine

/-! ### Halves of a limb -/

theorem lo32_toNat (x : Word) : (lo32 x).toNat = x.toNat % 2 ^ 32 := by
  simp only [lo32, BitVec.toNat_setWidth, BitVec.extractLsb'_toNat, Nat.shiftRight_zero]
  omega

theorem hi32_toNat (x : Word) : (hi32 x).toNat = x.toNat / 2 ^ 32 := by
  have := x.isLt
  simp only [hi32, BitVec.toNat_setWidth, BitVec.extractLsb'_toNat, Nat.shiftRight_eq_div_pow]
  omega

theorem lo32_lt (x : Word) : (lo32 x).toNat < 2 ^ 32 := by
  rw [lo32_toNat]
  exact Nat.mod_lt _ (by decide)

theorem hi32_lt (x : Word) : (hi32 x).toNat < 2 ^ 32 := by
  have := x.isLt
  rw [hi32_toNat]
  omega

/-- A limb is the pair of its halves. -/
theorem toNat_eq_halves (x : Word) : x.toNat = (hi32 x).toNat * 2 ^ 32 + (lo32 x).toNat := by
  rw [hi32_toNat, lo32_toNat]
  omega

/-! ### The 64 by 64 primitive -/

/-- The bound of 41_multiplier.md R110, for limbs and for their halves. -/
theorem toNat_mul_toNat_le {k : Nat} {u v : Word} (hu : u.toNat < 2 ^ k) (hv : v.toNat < 2 ^ k) :
    u.toNat * v.toNat ≤ (2 ^ k - 1) ^ 2 := by
  rw [Nat.pow_two]
  exact Nat.mul_le_mul (Nat.le_pred_of_lt hu) (Nat.le_pred_of_lt hv)

section CrossProduct
variable {u v : Word} (hu : u.toNat < 2 ^ 32) (hv : v.toNat < 2 ^ 32)
include hu hv

/-- The product of two halves does not wrap. -/
theorem crossProduct_toNat : (u * v).toNat = u.toNat * v.toNat := by
  have := toNat_mul_toNat_le hu hv
  rw [BitVec.toNat_mul]
  exact Nat.mod_eq_of_lt (by omega)

theorem crossProduct_le : (u * v).toNat ≤ (2 ^ 32 - 1) ^ 2 := by
  rw [crossProduct_toNat hu hv]
  exact toNat_mul_toNat_le hu hv

end CrossProduct

theorem append_low_halves_toNat (m p : Word) :
    (m.extractLsb' 0 32 ++ p.extractLsb' 0 32 : Word).toNat = m.toNat % 2 ^ 32 * 2 ^ 32 + p.toNat % 2 ^ 32 := by
  rw [BitVec.toNat_append, ← Nat.shiftLeft_add_eq_or_of_lt (BitVec.isLt _), Nat.shiftLeft_eq,
    BitVec.extractLsb'_toNat, BitVec.extractLsb'_toNat, Nat.shiftRight_zero, Nat.shiftRight_zero]

/-- Cross products of at most `(2^32-1)^2` are combined into their weighted sum: neither the `mid` column nor the high
limb wraps. -/
theorem join_columns_toNat {p00 p01 p10 p11 mid : Word} (h00 : p00.toNat ≤ (2 ^ 32 - 1) ^ 2)
    (h01 : p01.toNat ≤ (2 ^ 32 - 1) ^ 2) (h10 : p10.toNat ≤ (2 ^ 32 - 1) ^ 2) (h11 : p11.toNat ≤ (2 ^ 32 - 1) ^ 2)
    (hmid : mid = hi32 p00 + lo32 p10 + lo32 p01) :
    (join (p11 + hi32 p10 + hi32 p01 + hi32 mid) (mid.extractLsb' 0 32 ++ p00.extractLsb' 0 32)).toNat =
      p11.toNat * 2 ^ 64 + (p10.toNat + p01.toNat) * 2 ^ 32 + p00.toNat := by
  have hcolumn : mid.toNat = p00.toNat / 2 ^ 32 + p10.toNat % 2 ^ 32 + p01.toNat % 2 ^ 32 := by
    simp only [hmid, BitVec.toNat_add, hi32_toNat, lo32_toNat]
    omega
  simp only [toNat_join, unsignedValue, append_low_halves_toNat, BitVec.toNat_add, hi32_toNat, hcolumn]
  omega

theorem mulU64_toNat (x y : Word) : (mulU64 x y).toNat = x.toNat * y.toNat := by
  have hcolumns := join_columns_toNat (crossProduct_le (lo32_lt x) (lo32_lt y))
    (crossProduct_le (lo32_lt x) (hi32_lt y)) (crossProduct_le (hi32_lt x) (lo32_lt y))
    (crossProduct_le (hi32_lt x) (hi32_lt y)) rfl
  rw [mulU64, hcolumns, crossProduct_toNat (lo32_lt x) (lo32_lt y), crossProduct_toNat (lo32_lt x) (hi32_lt y),
    crossProduct_toNat (hi32_lt x) (lo32_lt y), crossProduct_toNat (hi32_lt x) (hi32_lt y), toNat_eq_halves x,
    toNat_eq_halves y]
  ring

theorem mulU64_comm (x y : Word) : mulU64 x y = mulU64 y x := by
  apply BitVec.eq_of_toNat_eq
  rw [mulU64_toNat, mulU64_toNat, Nat.mul_comm]

/-- The low half of the exact product is the wrapping product. -/
theorem loLimb_mulU64 (x y : Word) : loLimb (mulU64 x y) = x * y := by
  apply BitVec.eq_of_toNat_eq
  rw [loLimb_toNat, mulU64_toNat, BitVec.toNat_mul]

/-- Settles O29: the exactness of the primitive, and the bound of each limb. -/
theorem limbMultiplierIsExact : Obligations.LimbMultiplierIsExact := by
  intro x y
  refine ⟨mulU64_toNat x y, loLimb_mulU64 x y, ?_⟩
  rw [mulU64_toNat]
  exact toNat_mul_toNat_le x.isLt y.isLt

/-! ### The 128 by 128 product -/

theorem toNat_eq_limbs (v : Int128) : v.toNat = (hiLimb v).toNat * 2 ^ 64 + (loLimb v).toNat := by
  rw [hiLimb_toNat, loLimb_toNat]
  omega

/-- The product of the high limbs contributes only to bits 128 and above (41_multiplier.md R114). -/
theorem toNat_mul_toNat_eq_limbs (a b : Int128) :
    a.toNat * b.toNat = (hiLimb a).toNat * (hiLimb b).toNat * 2 ^ 128 +
      ((loLimb a).toNat * (hiLimb b).toNat + (hiLimb a).toNat * (loLimb b).toNat) * 2 ^ 64 +
      (loLimb a).toNat * (loLimb b).toNat := by
  rw [toNat_eq_limbs a, toNat_eq_limbs b]
  ring

/-- The wrapping multiplier is vector multiplication, as the limb adder is vector addition. -/
theorem mul128_eq_mul (a b : Int128) : mul128 a b = a * b := by
  apply BitVec.eq_of_toNat_eq
  rw [BitVec.toNat_mul, toNat_mul_toNat_eq_limbs, mul128, toNat_join, unsignedValue]
  simp only [BitVec.toNat_add, BitVec.toNat_mul, hiLimb_toNat (mulU64 _ _), loLimb_toNat (mulU64 _ _), mulU64_toNat]
  omega

/-- Settles O32: the laws of vector multiplication, and those of the primitive. -/
theorem multiplierFamilyLaws : Obligations.MultiplierFamilyLaws := by
  refine ⟨fun a b => ?_, fun x y => ⟨mulU64_toNat x y, mulU64_comm x y⟩⟩
  rw [mul128_eq_mul, mul128_eq_mul]
  refine ⟨?_, ?_, BitVec.mul_comm a b⟩
  · rw [BitVec.ofNat_mul, BitVec.ofNat_toNat, BitVec.ofNat_toNat, BitVec.setWidth_eq, BitVec.setWidth_eq]
  · rw [BitVec.ofInt_mul, BitVec.ofInt_toInt, BitVec.ofInt_toInt]

/-! ### The commands -/

/-- Settles O30: the primary result is the primitive on the low limbs of the operands. -/
theorem mulu64WritesExactProduct : Obligations.Mulu64WritesExactProduct := by
  refine ⟨decode_encode .mulu64, fun s => exec_writes_primaryResult (by decide) ?_⟩
  rw [primaryResult_mulu64]
  exact mulU64_toNat ..

/-- Settles O31: MUL is vector multiplication, whose signed value is the balanced remainder of the signed product. -/
theorem mulWritesWrappedProduct : Obligations.MulWritesWrappedProduct := by
  refine ⟨decode_encode .mul, fun s => exec_writes_primaryResult (by decide) ?_⟩
  rw [← opA_toNat, ← opB_toNat, ← opA_toInt, ← opB_toInt, primaryResult, mul128_eq_mul]
  refine ⟨BitVec.toNat_mul .., ?_⟩
  rw [BitVec.toInt_mul]
  exact Int.dvd_bmod_sub_self

end Sys2Proof.Machine
end

section
/-! The fast path of the divider (42_divider.md R125, R126): the restoring bit loop is long division, one bit of the low limb at a
time, and with the primitive on the high limb it is floor division of the two-limb dividend. -/

namespace Sys2Proof.Machine

/-! ### Long division -/

section LongDivision
variable {d : Nat} (y P m : Nat)

/-- Long division: the leading part `y` gives the leading part of the quotient, and its remainder is carried down. -/
theorem longDivision_split : y * P + m = d * (y / d * P) + (y % d * P + m) := by
  conv_lhs => rw [← Nat.div_add_mod y d]
  ring

theorem longDivision_div (hd : 0 < d) : (y * P + m) / d = y / d * P + (y % d * P + m) / d := by
  rw [longDivision_split, Nat.mul_add_div hd]

theorem longDivision_mod : (y * P + m) % d = (y % d * P + m) % d := by
  rw [longDivision_split, Nat.mul_add_mod]

end LongDivision

/-- The bits of a number from bit `n` down: bit `n`, then the rest. -/
theorem mul_two_pow_succ_add_mod (r x n : Nat) :
    r * 2 ^ (n + 1) + x % 2 ^ (n + 1) = (2 * r + x / 2 ^ n % 2) * 2 ^ n + x % 2 ^ n := by
  rw [Nat.mod_pow_succ]
  ring

/-! ### The bit loop -/

section BitLoop
variable {xLo d : Word} {r : Int128} {qLo : Word} {n : Nat}

/-- The shifted remainder with the next bit of the dividend brought in. -/
theorem shiftInBit_toNat (b : Bool) (hr : r.toNat < 2 ^ 127) :
    ((r <<< 1) ||| (BitVec.ofBool b).zeroExtend 128).toNat = 2 * r.toNat + b.toNat := by
  have hshift : (r <<< 1).toNat = 2 ^ 1 * r.toNat := by
    rw [BitVec.toNat_shiftLeft, Nat.shiftLeft_eq]
    omega
  rw [BitVec.toNat_or, hshift, BitVec.toNat_setWidth, BitVec.toNat_ofBool,
    Nat.mod_eq_of_lt (b.toNat_lt.trans (by decide)), ← Nat.two_pow_add_eq_or_of_lt b.toNat_lt, pow_one]

/-- Setting bit `n` of a quotient whose bits `n` and below are clear adds `2^n`. -/
theorem setQuotientBit_toNat (hn : n < 64) (hq : 2 ^ (n + 1) ∣ qLo.toNat) :
    (qLo ||| (1#64 <<< n)).toNat = qLo.toNat + 2 ^ n := by
  have hbit : (1#64 <<< n).toNat = 2 ^ n := by
    rw [BitVec.toNat_shiftLeft, BitVec.toNat_ofNat, Nat.shiftLeft_eq]
    simpa using Nat.pow_lt_pow_right Nat.one_lt_two hn
  obtain ⟨k, hk⟩ := hq
  rw [BitVec.toNat_or, hbit, hk,
    Nat.two_pow_add_eq_or_of_lt (Nat.pow_lt_pow_right Nat.one_lt_two n.lt_succ_self) k]

theorem getLsbD_toNat (x : Word) (i : Nat) : (x.getLsbD i).toNat = x.toNat / 2 ^ i % 2 := by
  rw [BitVec.getLsbD, Nat.toNat_testBit]

/-- One iteration divides the shifted remainder by the divisor: the quotient, 0 or 1, is bit `n`, and the remainder goes on. -/
theorem bitLoopStep_toNat (hr : r.toNat < d.toNat) (hn : n < 64) (hq : 2 ^ (n + 1) ∣ qLo.toNat) :
    (bitLoopStep xLo d n r qLo).1.toNat = (2 * r.toNat + xLo.toNat / 2 ^ n % 2) % d.toNat ∧
    (bitLoopStep xLo d n r qLo).2.toNat =
      qLo.toNat + (2 * r.toNat + xLo.toNat / 2 ^ n % 2) / d.toNat * 2 ^ n := by
  have hd := d.isLt
  have hwide : (d.zeroExtend 128).toNat = d.toNat := BitVec.toNat_setWidth_of_le (by decide)
  have hin := shiftInBit_toNat (xLo.getLsbD n) (r := r) (by omega)
  rw [getLsbD_toNat] at hin
  rw [bitLoopStep, ← hin, BitVec.ule_eq_decide, hwide]
  generalize r <<< 1 ||| _ = y at *
  by_cases hfit : d.toNat ≤ y.toNat
  · have hone : y.toNat / d.toNat = 1 := Nat.div_eq_of_lt_le (by omega) (by omega)
    rw [if_pos (by simpa using hfit), hone, one_mul, setQuotientBit_toNat hn hq, Nat.mod_eq_sub_div_mul, hone,
      BitVec.toNat_sub_of_le (by simpa [BitVec.le_def, hwide] using hfit), hwide, one_mul]
    exact ⟨rfl, rfl⟩
  · rw [if_neg (by simpa using hfit), Nat.mod_eq_of_lt (by omega), Nat.div_eq_of_lt (by omega), zero_mul, add_zero]
    exact ⟨rfl, rfl⟩

/-- The loop from bit `n-1` down divides the running remainder followed by the low `n` bits of the dividend. -/
theorem bitLoop_toNat (hn : n ≤ 64) (hr : r.toNat < d.toNat) (hq : 2 ^ n ∣ qLo.toNat) :
    (bitLoop xLo d n r qLo).1.toNat = (r.toNat * 2 ^ n + xLo.toNat % 2 ^ n) % d.toNat ∧
    (bitLoop xLo d n r qLo).2.toNat = qLo.toNat + (r.toNat * 2 ^ n + xLo.toNat % 2 ^ n) / d.toNat := by
  have hd : 0 < d.toNat := by omega
  induction n generalizing r qLo with
  | zero => simp [bitLoop, Nat.mod_one, Nat.mod_eq_of_lt hr, Nat.div_eq_of_lt hr]
  | succ n ih =>
    obtain ⟨hrem, hquot⟩ := bitLoopStep_toNat (xLo := xLo) hr hn hq
    have hdvd : 2 ^ n ∣ (bitLoopStep xLo d n r qLo).2.toNat := by
      rw [hquot]
      exact ((pow_dvd_pow 2 n.le_succ).trans hq).add (Nat.dvd_mul_left _ _)
    obtain ⟨hr', hq'⟩ := ih (by omega) (hrem ▸ Nat.mod_lt _ hd) hdvd
    rw [bitLoop, hr', hq', hrem, hquot, mul_two_pow_succ_add_mod, Nat.add_assoc]
    exact ⟨(longDivision_mod ..).symm, congrArg _ (longDivision_div _ _ _ hd).symm⟩

end BitLoop

/-! ### The fast path -/

/-- The primitive on the high limb and the loop on the low limb are the two steps of one long division. -/
theorem divFast_toNat (xHi xLo : Word) {d : Word} (hd : 0 < d.toNat) :
    (divFast xHi xLo d).1.toNat = unsignedValue xHi xLo / d.toNat ∧
    (divFast xHi xLo d).2.toNat = unsignedValue xHi xLo % d.toNat := by
  have hlt (x : Nat) : x % d.toNat < 2 ^ 64 := (Nat.mod_lt x hd).trans d.isLt
  have hr : ((xHi % d).zeroExtend 128).toNat = xHi.toNat % d.toNat := by
    rw [BitVec.toNat_setWidth_of_le (by decide), BitVec.toNat_umod]
  obtain ⟨hrem, hquot⟩ :=
    bitLoop_toNat (xLo := xLo) (qLo := 0) (Nat.le_refl 64) (hr.trans_lt (Nat.mod_lt _ hd)) (Nat.dvd_zero _)
  rw [hr, Nat.mod_eq_of_lt xLo.isLt] at hrem hquot
  rw [unsignedValue, longDivision_div _ _ _ hd, longDivision_mod, divFast, toNat_join, unsignedValue, loLimb_toNat,
    hrem, hquot, BitVec.toNat_udiv]
  exact ⟨by simp, Nat.mod_eq_of_lt (hlt _)⟩

/-- Settles O34: the fast path is one long division. -/
theorem fastPathIsFloorDivision : Obligations.FastPathIsFloorDivision :=
  fun xHi xLo _ hd => divFast_toNat xHi xLo (BitVec.toNat_pos_of_ne_zero hd)

end Sys2Proof.Machine
end

section
/-! The general path of the divider, steps 1 and 2 (42_divider.md R128 to R130): normalization multiplies both operands by the same
power of two and sets the top bit of the divisor, so that the trial quotient fits in one limb. -/

namespace Sys2Proof.Machine

/-! ### Leading zeros -/

theorem getLsbD_eq_decide_le {x : Word} {n : Nat} (h : x.toNat < 2 ^ (n + 1)) :
    x.getLsbD n = decide (2 ^ n ≤ x.toNat) := by
  rw [BitVec.getLsbD, Nat.testBit_eq_decide_div_mod_eq]
  have hdiv : x.toNat / 2 ^ n < 2 := Nat.div_lt_of_lt_mul (by rwa [← pow_succ])
  have hle : 1 ≤ x.toNat / 2 ^ n ↔ 2 ^ n ≤ x.toNat := by rw [Nat.le_div_iff_mul_le (by positivity), one_mul]
  rw [decide_eq_decide, ← hle]
  generalize x.toNat / 2 ^ n = b at hdiv
  omega

/-- Shifting left by the leading zeros puts the first one bit at bit `n-1`. -/
theorem mul_two_pow_leadingZeros {x : Word} (hx : x ≠ 0) {n : Nat} (hn : x.toNat < 2 ^ n) :
    x.toNat * 2 ^ leadingZeros x n < 2 ^ n ∧ 2 ^ n ≤ x.toNat * 2 ^ (leadingZeros x n + 1) := by
  have hpos := BitVec.toNat_pos_of_ne_zero hx
  induction n with
  | zero => omega
  | succ n ih =>
    rw [leadingZeros, getLsbD_eq_decide_le hn]
    by_cases htop : 2 ^ n ≤ x.toNat
    · rw [if_pos (decide_eq_true htop), pow_succ]
      omega
    · obtain ⟨hlt, hle⟩ := ih (by omega)
      rw [if_neg (by simpa using htop), Nat.add_comm 1, pow_succ, pow_succ 2 n, ← Nat.mul_assoc, pow_succ _ (_ + 1),
        ← Nat.mul_assoc]
      omega

theorem clz64_lt {x : Word} (hx : x ≠ 0) : clz64 x < 64 := by
  have hle : 2 ^ clz64 x ≤ x.toNat * 2 ^ clz64 x := Nat.le_mul_of_pos_left _ (BitVec.toNat_pos_of_ne_zero hx)
  exact (Nat.pow_lt_pow_iff_right Nat.one_lt_two).mp (hle.trans_lt (mul_two_pow_leadingZeros hx x.isLt).1)

/-! ### The normalized operands -/

theorem threeLimbs_eq_limbs (n : DivNorm) :
    (threeLimbs n).toNat = unsignedValue n.n2 n.n1 * 2 ^ 64 + n.n0.toNat := by
  change (join n.n2 n.n1 ++ n.n0).toNat = _
  rw [BitVec.toNat_append, ← Nat.shiftLeft_add_eq_or_of_lt n.n0.isLt, Nat.shiftLeft_eq, toNat_join]

section Normalize
variable (ua ub : Int128)

theorem normalize_d1 : (normalize ua ub).d1 = hiLimb (normalize ua ub).bn := rfl

theorem normalize_d0 : (normalize ua ub).d0 = loLimb (normalize ua ub).bn := rfl

theorem divisorLimbs_eq_bn :
    unsignedValue (normalize ua ub).d1 (normalize ua ub).d0 = (normalize ua ub).bn.toNat :=
  (toNat_eq_limbs _).symm

theorem threeLimbs_normalize : threeLimbs (normalize ua ub) = ua.zeroExtend 192 <<< (normalize ua ub).shift := by
  simp only [threeLimbs, normalize]
  rw [BitVec.extractLsb'_append_extractLsb'_eq_extractLsb' (start₂ := 128) (start₁ := 64) (len₁ := 64) rfl]
  exact BitVec.extractLsb'_append_extractLsb' (w := 128) (len := 64)

end Normalize

section NormalizedOperands
variable (ua : Int128) {ub : Int128} (hub : hiLimb ub ≠ 0)
include hub

theorem shift_le : (normalize ua ub).shift ≤ 63 := Nat.le_of_lt_succ (clz64_lt hub)

/-- The divisor reaches bit 127 after the shift and no further. -/
theorem mul_two_pow_shift_bounds :
    2 ^ 127 ≤ ub.toNat * 2 ^ (normalize ua ub).shift ∧ ub.toNat * 2 ^ (normalize ua ub).shift < 2 ^ 128 := by
  have hs : (normalize ua ub).shift ≤ 63 := shift_le ua hub
  obtain ⟨hlt, hle⟩ : _ * 2 ^ (normalize ua ub).shift < _ ∧ _ ≤ _ * 2 ^ ((normalize ua ub).shift + 1) :=
    mul_two_pow_leadingZeros hub (hiLimb ub).isLt
  generalize (normalize ua ub).shift = s at *
  have hfit : ((hiLimb ub).toNat + 1) * 2 ^ s ≤ 2 ^ 64 := by
    have hsplit : 2 ^ 64 = 2 ^ (64 - s) * 2 ^ s := by rw [← pow_add, Nat.sub_add_cancel (by omega)]
    rw [hsplit] at hlt ⊢
    exact Nat.mul_le_mul_right _ (Nat.lt_of_mul_lt_mul_right hlt)
  have hlo : (loLimb ub).toNat * 2 ^ s ≤ (2 ^ 64 - 1) * 2 ^ s :=
    Nat.mul_le_mul_right _ (Nat.le_pred_of_lt (loLimb ub).isLt)
  have hpos : 0 < 2 ^ s := by positivity
  rw [pow_succ 2 s, ← Nat.mul_assoc] at hle
  rw [Nat.add_one_mul] at hfit
  rw [toNat_eq_limbs ub, Nat.add_mul, Nat.mul_right_comm]
  omega

/-- No bit of the divisor is lost. -/
theorem bn_toNat : (normalize ua ub).bn.toNat = ub.toNat * 2 ^ (normalize ua ub).shift := by
  change (ub <<< (normalize ua ub).shift).toNat = _
  rw [BitVec.toNat_shiftLeft, Nat.shiftLeft_eq, Nat.mod_eq_of_lt (mul_two_pow_shift_bounds ua hub).2]

/-- No bit of the dividend is lost. -/
theorem threeLimbs_toNat : (threeLimbs (normalize ua ub)).toNat = ua.toNat * 2 ^ (normalize ua ub).shift := by
  have hs := shift_le ua hub
  rw [threeLimbs_normalize, BitVec.toNat_shiftLeft, BitVec.toNat_setWidth_of_le (by decide), Nat.shiftLeft_eq]
  have := Nat.mul_le_mul (Nat.le_pred_of_lt ua.isLt) (Nat.pow_le_pow_right Nat.two_pos hs)
  exact Nat.mod_eq_of_lt (this.trans_lt (by decide))

theorem two_pow_le_d1 : 2 ^ 63 ≤ (normalize ua ub).d1.toNat := by
  have h := (mul_two_pow_shift_bounds ua hub).1
  rw [normalize_d1, hiLimb_toNat, bn_toNat ua hub]
  omega

/-- The top limb of the dividend is what the shift pushes out of the operand: nothing for a shift of 0. -/
theorem n2_toNat : (normalize ua ub).n2.toNat = (hiLimb ua).toNat / 2 ^ (64 - (normalize ua ub).shift) := by
  have hs := shift_le ua hub
  have htop : (normalize ua ub).n2.toNat = (threeLimbs (normalize ua ub)).toNat / 2 ^ 128 := by
    have := (normalize ua ub).n1.isLt
    have := (normalize ua ub).n0.isLt
    rw [threeLimbs_eq_limbs, unsignedValue]
    omega
  have hsplit : 2 ^ 128 = 2 ^ (64 + (64 - (normalize ua ub).shift)) * 2 ^ (normalize ua ub).shift := by
    rw [← pow_add]
    congr 1
    omega
  rw [htop, threeLimbs_toNat ua hub, hsplit, Nat.mul_div_mul_right _ _ (by positivity), hiLimb_toNat, pow_add,
    Nat.div_div_eq_div_mul]

theorem n2_lt_two_pow_shift : (normalize ua ub).n2.toNat < 2 ^ (normalize ua ub).shift := by
  have hs := shift_le ua hub
  rw [n2_toNat ua hub, Nat.div_lt_iff_lt_mul (by positivity), ← pow_add, Nat.add_sub_cancel' (by omega)]
  exact (hiLimb ua).isLt

theorem n2_lt_d1 : (normalize ua ub).n2.toNat < (normalize ua ub).d1.toNat :=
  calc _ < 2 ^ (normalize ua ub).shift := n2_lt_two_pow_shift ua hub
    _ ≤ 2 ^ 63 := Nat.pow_le_pow_right Nat.two_pos (shift_le ua hub)
    _ ≤ _ := two_pow_le_d1 ua hub

end NormalizedOperands

/-- Settles O35: a shift by the leading zeros of the divisor multiplies both operands and loses nothing. -/
theorem normalizationLosesNoBit : Obligations.NormalizationLosesNoBit := by
  intro ua ub hub
  have hn2 : (normalize ua ub).n2 = hiLimb ua >>> (64 - (normalize ua ub).shift) := by
    apply BitVec.eq_of_toNat_eq
    rw [n2_toNat ua hub, BitVec.toNat_ushiftRight, Nat.shiftRight_eq_div_pow]
  refine ⟨shift_le ua hub, bn_toNat ua hub, divisorLimbs_eq_bn ua ub, two_pow_le_d1 ua hub, threeLimbs_toNat ua hub,
    fun hzero => ?_, fun _ => hn2, n2_lt_two_pow_shift ua hub, n2_lt_d1 ua hub⟩
  rw [hn2, hzero]
  exact BitVec.ushiftRight_eq_zero (Nat.le_refl 64)

/-! ### The trial quotient -/

section Trial
variable {ua ub : Int128} (hub : hiLimb ub ≠ 0)
include hub

theorem trialQuotient_toNat :
    (trialQuotient (normalize ua ub)).qHat.toNat =
      unsignedValue (normalize ua ub).n2 (normalize ua ub).n1 / (normalize ua ub).d1.toNat ∧
    (trialQuotient (normalize ua ub)).rHat.toNat =
      unsignedValue (normalize ua ub).n2 (normalize ua ub).n1 % (normalize ua ub).d1.toNat := by
  obtain ⟨hquot, hrem⟩ := divFast_toNat (normalize ua ub).n2 (normalize ua ub).n1
    (lt_of_lt_of_le (by decide) (two_pow_le_d1 ua hub))
  exact ⟨hquot, by rw [← hrem, trialQuotient, BitVec.toNat_setWidth_of_le (by decide)]⟩

/-- The two leading limbs of the dividend are less than `d1 * 2^64`. -/
theorem trialQuotient_lt : (trialQuotient (normalize ua ub)).qHat.toNat < 2 ^ 64 := by
  have hn2 := n2_lt_d1 ua hub
  have hn1 := (normalize ua ub).n1.isLt
  rw [(trialQuotient_toNat hub).1, Nat.div_lt_iff_lt_mul (by omega), unsignedValue]
  omega

theorem topCorrectionFires_eq_false : topCorrectionFires (trialQuotient (normalize ua ub)) = false :=
  decide_eq_false (Nat.not_le_of_lt (trialQuotient_lt hub))

end Trial

/-- Settles O36: the trial quotient is the fast path's, on a high limb below the divisor. -/
theorem trialQuotientFitsOneLimb : Obligations.TrialQuotientFitsOneLimb :=
  fun _ _ hub => ⟨(trialQuotient_toNat hub).1, (trialQuotient_toNat hub).2, trialQuotient_lt hub,
    topCorrectionFires_eq_false hub⟩

end Sys2Proof.Machine
end

section
/-! The general path of the divider, steps 4 to 7 (42_divider.md R131 to R134), and the three paths together (R136): the guarded
refinement test compares the trial product with the whole dividend, so it fires exactly while the trial quotient is too large. -/

namespace Sys2Proof.Machine

/-! ### The refinement loop -/

/-- What steps 2 to 4 keep: the trial remainder is what the trial quotient leaves of the two leading limbs of the dividend
(42_divider.md R129, R131). -/
def TrialRemainderExact (n : DivNorm) (t : DivTrial) : Prop :=
  t.qHat.toNat * n.d1.toNat + t.rHat.toNat = unsignedValue n.n2 n.n1

theorem loLimb_toNat_of_lt {v : Int128} (h : v.toNat < 2 ^ 64) : (loLimb v).toNat = v.toNat := by
  rw [loLimb_toNat, Nat.mod_eq_of_lt h]

section Refine
variable {n : DivNorm} {t : DivTrial}

theorem refinementFires_iff_guard (hq : t.qHat.toNat < 2 ^ 64) : refinementFires n t = true ↔
    t.rHat.toNat < 2 ^ 64 ∧ t.rHat.toNat * 2 ^ 64 + n.n0.toNat < t.qHat.toNat * n.d0.toNat := by
  rw [refinementFires, BitVec.ult_eq_decide, mulU64_toNat, loLimb_toNat_of_lt hq, toNat_join, unsignedValue,
    Bool.and_eq_true, ← decide_not, decide_eq_true_eq, decide_eq_true_eq, not_le]
  refine and_congr_right fun hr => ?_
  rw [BitVec.extractLsb'_toNat, Nat.shiftRight_zero, Nat.mod_eq_of_lt hr]

/-- The guarded test asks whether the trial product exceeds the dividend: where the guard stops the loop, it does not. -/
theorem refinementFires_iff (h : TrialRemainderExact n t) (hq : t.qHat.toNat < 2 ^ 64) :
    refinementFires n t = true ↔ (threeLimbs n).toNat < t.qHat.toNat * unsignedValue n.d1 n.d0 := by
  have hdividend : (threeLimbs n).toNat =
      t.qHat.toNat * n.d1.toNat * 2 ^ 64 + (t.rHat.toNat * 2 ^ 64 + n.n0.toNat) := by
    rw [threeLimbs_eq_limbs, ← h]
    ring
  have hproduct : t.qHat.toNat * unsignedValue n.d1 n.d0 =
      t.qHat.toNat * n.d1.toNat * 2 ^ 64 + t.qHat.toNat * n.d0.toNat := by
    rw [unsignedValue]
    ring
  have hlow : t.qHat.toNat * n.d0.toNat < 2 ^ 64 * 2 ^ 64 := Nat.mul_lt_mul'' hq n.d0.isLt
  rw [refinementFires_iff_guard hq, hdividend, hproduct]
  omega

theorem lowerTrial_qHat_toNat (hq : 0 < t.qHat.toNat) : (lowerTrial n t).qHat.toNat = t.qHat.toNat - 1 := by
  have hone : (1 : Int128).toNat = 1 := rfl
  rw [lowerTrial, BitVec.toNat_sub_of_le (by rwa [BitVec.le_def, hone]), hone]

/-- A remainder that passed the guard leaves room for one more divisor limb in 65 bits. -/
theorem lowerTrial_rHat_toNat (hr : t.rHat.toNat < 2 ^ 64) :
    (lowerTrial n t).rHat.toNat = t.rHat.toNat + n.d1.toNat := by
  have hd := n.d1.isLt
  rw [lowerTrial, BitVec.toNat_add, BitVec.toNat_setWidth_of_le (by decide), Nat.mod_eq_of_lt (by omega)]

theorem lowerTrial_exact (h : TrialRemainderExact n t) (hq : 0 < t.qHat.toNat) (hr : t.rHat.toNat < 2 ^ 64) :
    TrialRemainderExact n (lowerTrial n t) := by
  have hsucc : t.qHat.toNat = (lowerTrial n t).qHat.toNat + 1 := by
    rw [lowerTrial_qHat_toNat hq, Nat.sub_add_cancel hq]
  rw [TrialRemainderExact] at h ⊢
  rw [lowerTrial_rHat_toNat hr, ← h, hsucc, Nat.add_one_mul]
  omega

/-- A trial quotient at most `k` above the floor quotient is lowered to it by at most `k` refinements. -/
theorem refine_qHat_toNat (hd : 0 < unsignedValue n.d1 n.d0) {k : Nat} (h : TrialRemainderExact n t)
    (hq : t.qHat.toNat < 2 ^ 64) (hlow : (threeLimbs n).toNat / unsignedValue n.d1 n.d0 ≤ t.qHat.toNat)
    (hhigh : t.qHat.toNat ≤ (threeLimbs n).toNat / unsignedValue n.d1 n.d0 + k) :
    (refine n k t).qHat.toNat = (threeLimbs n).toNat / unsignedValue n.d1 n.d0 := by
  induction k generalizing t with
  | zero =>
    rw [Nat.add_zero] at hhigh
    rw [refine, Nat.le_antisymm hhigh hlow]
  | succ k ih =>
    have hiff := refinementFires_iff h hq
    rw [← Nat.div_lt_iff_lt_mul hd] at hiff
    generalize (threeLimbs n).toNat / unsignedValue n.d1 n.d0 = q at *
    rw [refine]
    split
    · next hfires =>
      have hr := ((refinementFires_iff_guard hq).mp hfires).1
      have hlt := hiff.mp hfires
      have hquot : (lowerTrial n t).qHat.toNat = t.qHat.toNat - 1 := lowerTrial_qHat_toNat (by omega)
      exact ih (lowerTrial_exact h (by omega) hr) (by omega) (by omega) (by omega)
    · next hstops =>
      exact Nat.le_antisymm (Nat.le_of_not_lt fun hlt => hstops (hiff.mpr hlt)) hlow

end Refine

/-! ### The bound on the trial quotient -/

/-- Dividing the leading part `X` of the dividend by the leading part `d1` of the divisor never gives less than the quotient,
and at most one more where the dropped part `d0`, times the quotient plus one, stays within `d1 * B`. -/
theorem leadingDiv_bounds {X n0 d1 d0 B : Nat} (hd : 0 < d1) (hn : n0 < B)
    (hd0 : ((X * B + n0) / (d1 * B + d0) + 1) * d0 ≤ d1 * B) :
    (X * B + n0) / (d1 * B + d0) ≤ X / d1 ∧ X / d1 ≤ (X * B + n0) / (d1 * B + d0) + 1 := by
  have hB : 0 < B := by omega
  have hdB : 0 < d1 * B := Nat.mul_pos hd hB
  constructor
  · calc (X * B + n0) / (d1 * B + d0) ≤ (X * B + n0) / (B * d1) :=
          Nat.div_le_div_left (by rw [Nat.mul_comm B]; omega) (by rwa [Nat.mul_comm B])
      _ = X / d1 := by
          rw [← Nat.div_div_eq_div_mul, Nat.mul_comm X, Nat.mul_add_div hB, Nat.div_eq_of_lt hn, Nat.add_zero]
  · have hlt : X * B + n0 < ((X * B + n0) / (d1 * B + d0) + 1) * (d1 * B + d0) :=
      Nat.lt_mul_of_div_lt (Nat.lt_succ_self _) (by omega)
    generalize (X * B + n0) / (d1 * B + d0) = q at *
    refine Nat.le_of_lt_succ ((Nat.div_lt_iff_lt_mul hd).mpr (Nat.lt_of_mul_lt_mul_right (a := B) ?_))
    calc X * B ≤ X * B + n0 := Nat.le_add_right ..
      _ < (q + 1) * (d1 * B) + (q + 1) * d0 := by rwa [← Nat.mul_add]
      _ ≤ (q + 1) * (d1 * B) + d1 * B := Nat.add_le_add_left hd0 _
      _ = (q + 1 + 1) * d1 * B := by ring

section General
variable {ua ub : Int128} (hub : hiLimb ub ≠ 0)

/-- The floor quotient of the normalized operands is that of the operands. -/
theorem normalized_div (hub : hiLimb ub ≠ 0) :
    (threeLimbs (normalize ua ub)).toNat / unsignedValue (normalize ua ub).d1 (normalize ua ub).d0 =
      ua.toNat / ub.toNat := by
  rw [threeLimbs_toNat ua hub, divisorLimbs_eq_bn, bn_toNat ua hub, Nat.mul_div_mul_right _ _ (by positivity)]

include hub

theorem toNat_pos_of_hiLimb_ne_zero : 0 < ub.toNat := BitVec.toNat_pos_of_ne_zero fun h => hub (by rw [h]; rfl)

theorem trialRemainderExact_trialQuotient :
    TrialRemainderExact (normalize ua ub) (trialQuotient (normalize ua ub)) := by
  rw [TrialRemainderExact, (trialQuotient_toNat hub).1, (trialQuotient_toNat hub).2]
  exact Nat.div_add_mod' ..

/-- The quotient is less than `2^(shift+1)`, since the divisor is at least `2^(127-shift)`. -/
theorem div_lt_two_pow_shift : ua.toNat / ub.toNat < 2 * 2 ^ (normalize ua ub).shift := by
  have hbn := (mul_two_pow_shift_bounds ua hub).1
  rw [Nat.div_lt_iff_lt_mul (toNat_pos_of_hiLimb_ne_zero hub)]
  calc ua.toNat < 2 * 2 ^ 127 := ua.isLt
    _ ≤ 2 * (ub.toNat * 2 ^ (normalize ua ub).shift) := Nat.mul_le_mul_left 2 hbn
    _ = _ := by ring

/-- The low divisor limb is a multiple of the power that shifted it, so it stays small against the bound on the quotient. -/
theorem two_pow_shift_mul_d0_le : 2 * 2 ^ (normalize ua ub).shift * (normalize ua ub).d0.toNat ≤ 2 ^ 127 := by
  have hs := shift_le ua hub
  have hd0 := (normalize ua ub).d0.isLt
  rcases Nat.lt_or_eq_of_le hs with hlt | heq
  · have hpow : 2 ^ (normalize ua ub).shift ≤ 2 ^ 62 := Nat.pow_le_pow_right Nat.two_pos (by omega)
    have := Nat.mul_le_mul hpow hd0.le
    rw [Nat.mul_assoc]
    omega
  · rw [normalize_d0, loLimb_toNat, bn_toNat ua hub, heq]
    omega

/-- Knuth's bound, sharpened by the size of the quotient (42_divider.md R131): the trial quotient is at most one too large. -/
theorem trialQuotient_bounds :
    ua.toNat / ub.toNat ≤ (trialQuotient (normalize ua ub)).qHat.toNat ∧
    (trialQuotient (normalize ua ub)).qHat.toNat ≤ ua.toNat / ub.toNat + 1 := by
  have hd1 := two_pow_le_d1 ua hub
  have hd0 : (ua.toNat / ub.toNat + 1) * (normalize ua ub).d0.toNat ≤ (normalize ua ub).d1.toNat * 2 ^ 64 :=
    calc _ ≤ 2 * 2 ^ (normalize ua ub).shift * (normalize ua ub).d0.toNat :=
          Nat.mul_le_mul_right _ (div_lt_two_pow_shift hub)
      _ ≤ 2 ^ 127 := two_pow_shift_mul_d0_le hub
      _ ≤ _ := by omega
  rw [← normalized_div hub, threeLimbs_eq_limbs, unsignedValue] at hd0 ⊢
  rw [(trialQuotient_toNat hub).1]
  exact leadingDiv_bounds (lt_of_lt_of_le (by decide) hd1) (normalize ua ub).n0.isLt hd0

theorem div_lt_two_pow_64 : ua.toNat / ub.toNat < 2 ^ 64 := by
  have := trialQuotient_bounds (ua := ua) hub
  have := trialQuotient_lt (ua := ua) hub
  omega

/-- Steps 1 to 4 leave the floor quotient. -/
theorem refinedTrial_qHat_toNat : (refinedTrial (normalize ua ub)).qHat.toNat = ua.toNat / ub.toNat := by
  have hdivisor : 0 < unsignedValue (normalize ua ub).d1 (normalize ua ub).d0 := by
    have := two_pow_le_d1 ua hub
    rw [unsignedValue]
    omega
  obtain ⟨hlow, hhigh⟩ := trialQuotient_bounds (ua := ua) hub
  rw [← normalized_div hub] at hlow hhigh ⊢
  rw [refinedTrial, topCorrect, topCorrectionFires_eq_false hub]
  exact refine_qHat_toNat hdivisor (trialRemainderExact_trialQuotient hub) (trialQuotient_lt hub) hlow
    (Nat.le_succ_of_le hhigh)

end General

/-! ### The subtraction and the final restore -/

/-- Three limbs hold the product of one limb and two. -/
theorem trialProduct_toNat {n : DivNorm} {t : DivTrial} (hq : t.qHat.toNat < 2 ^ 64) :
    (trialProduct n t).toNat = t.qHat.toNat * unsignedValue n.d1 n.d0 := by
  have hlow := toNat_mul_toNat_le (loLimb t.qHat).isLt n.d0.isLt
  have hhigh := toNat_mul_toNat_le (loLimb t.qHat).isLt n.d1.isLt
  rw [loLimb_toNat_of_lt hq] at hlow hhigh
  rw [unsignedValue, Nat.mul_add, ← Nat.mul_assoc, trialProduct, BitVec.toNat_add, BitVec.toNat_shiftLeft,
    BitVec.toNat_setWidth_of_le (by decide), BitVec.toNat_setWidth_of_le (by decide), mulU64_toNat, mulU64_toNat,
    loLimb_toNat_of_lt hq, Nat.shiftLeft_eq]
  omega

section Restore
variable {ua ub : Int128} (hub : hiLimb ub ≠ 0)
include hub

theorem refinedTrial_product_toNat : (trialProduct (normalize ua ub) (refinedTrial (normalize ua ub))).toNat =
    ua.toNat / ub.toNat * ub.toNat * 2 ^ (normalize ua ub).shift := by
  have hq := refinedTrial_qHat_toNat (ua := ua) hub
  rw [trialProduct_toNat (hq ▸ div_lt_two_pow_64 hub), hq, divisorLimbs_eq_bn, bn_toNat ua hub, Nat.mul_assoc]

theorem refinedTrial_product_le : (trialProduct (normalize ua ub) (refinedTrial (normalize ua ub))).toNat ≤
    (threeLimbs (normalize ua ub)).toNat := by
  rw [refinedTrial_product_toNat hub, threeLimbs_toNat ua hub]
  exact Nat.mul_le_mul_right _ (Nat.div_mul_le_self ..)

theorem restoreFires_eq_false : restoreFires (normalize ua ub) (refinedTrial (normalize ua ub)) = false := by
  rw [restoreFires, BitVec.ult_eq_decide]
  exact decide_eq_false (Nat.not_lt_of_le (refinedTrial_product_le hub))

/-- The three-limb difference is the remainder, still shifted. -/
theorem difference_toNat :
    (threeLimbs (normalize ua ub) - trialProduct (normalize ua ub) (refinedTrial (normalize ua ub))).toNat =
      ua.toNat % ub.toNat * 2 ^ (normalize ua ub).shift := by
  rw [BitVec.toNat_sub_of_le (BitVec.le_def.mpr (refinedTrial_product_le hub)), refinedTrial_product_toNat hub,
    threeLimbs_toNat ua hub, ← Nat.sub_mul, Nat.mod_eq_sub_div_mul]

/-- The general path is floor division. -/
theorem divGeneral_toNat : (divGeneral ua ub).1.toNat = ua.toNat / ub.toNat ∧
    (divGeneral ua ub).2.toNat = ua.toNat % ub.toNat := by
  have hq := refinedTrial_qHat_toNat (ua := ua) hub
  have hrem : ua.toNat % ub.toNat * 2 ^ (normalize ua ub).shift < 2 ^ 128 :=
    calc _ ≤ ub.toNat * 2 ^ (normalize ua ub).shift :=
          Nat.mul_le_mul_right _ (Nat.mod_lt _ (toNat_pos_of_hiLimb_ne_zero hub)).le
      _ < 2 ^ 128 := (mul_two_pow_shift_bounds ua hub).2
  rw [divGeneral, subtractRestore, restoreFires_eq_false hub]
  constructor
  · have hlimb := loLimb_toNat_of_lt (hq.trans_lt (div_lt_two_pow_64 hub))
    exact (BitVec.toNat_setWidth_of_le (by decide)).trans (hlimb.trans hq)
  · change (BitVec.extractLsb' 0 128 (_ - _) >>> (normalize ua ub).shift).toNat = _
    rw [BitVec.toNat_ushiftRight, BitVec.extractLsb'_toNat, difference_toNat hub, Nat.shiftRight_zero,
      Nat.mod_eq_of_lt hrem, Nat.shiftRight_eq_div_pow, Nat.mul_div_cancel _ (by positivity)]

end Restore

/-- Settles O37: the loop needs at most one of its two iterations, and what it leaves is the floor quotient. -/
theorem refinementLeavesExactQuotient : Obligations.RefinementLeavesExactQuotient := by
  intro ua ub hub
  refine ⟨refinedTrial_qHat_toNat hub, div_lt_two_pow_64 hub, ?_, restoreFires_eq_false hub⟩
  rw [refinedTrial_qHat_toNat hub]
  exact (trialQuotient_bounds hub).2

/-! ### The three paths -/

theorem divu_toNat {ua ub : Int128} (hub : ub ≠ 0) :
    (divu ua ub).1.toNat = ua.toNat / ub.toNat ∧ (divu ua ub).2.toNat = ua.toNat % ub.toNat := by
  rw [divu, BitVec.ult_eq_decide]
  by_cases hquick : ua.toNat < ub.toNat
  · rw [if_pos (decide_eq_true hquick), Nat.div_eq_of_lt hquick, Nat.mod_eq_of_lt hquick]
    exact ⟨rfl, rfl⟩
  rw [if_neg (by simpa using hquick)]
  by_cases hhi : hiLimb ub = 0
  · have hlo : ub.toNat = (loLimb ub).toNat := by simp [toNat_eq_limbs ub, hhi]
    have hpos : 0 < (loLimb ub).toNat := hlo ▸ BitVec.toNat_pos_of_ne_zero hub
    rw [if_pos hhi, hlo, toNat_eq_limbs ua, BitVec.toNat_setWidth_of_le (by decide)]
    exact divFast_toNat _ _ hpos
  · rw [if_neg hhi]
    exact divGeneral_toNat hhi

/-- Settles O38: each of the quick exit, the fast path and the general path is floor division. -/
theorem unsignedDividerIsFloorDivision : Obligations.UnsignedDividerIsFloorDivision :=
  fun _ _ => divu_toNat

end Sys2Proof.Machine
end

section
/-! DIVREM (42_divider.md R122, R137 to R140): the sign split, the unsigned divider and the sign restoration are the truncating
division and remainder of two's-complement vectors, so the contract of R120 is that of truncating integer division. -/

namespace Sys2Proof.Machine

/-! ### Magnitudes -/

theorem magnitude_eq_abs128 (v : Int128) : magnitude v = abs128 v := rfl

theorem magnitude_eq_neg_of_msb {v : Int128} (h : v.msb = true) : magnitude v = -v := by
  rw [magnitude, isNeg_eq_msb, if_pos h, neg128_eq_neg]

theorem magnitude_eq_self_of_msb {v : Int128} (h : v.msb = false) : magnitude v = v := by
  rw [magnitude, isNeg_eq_msb, h, if_neg Bool.false_ne_true]

theorem magnitude_ne_zero {v : Int128} (h : v ≠ 0) : magnitude v ≠ 0 := by
  intro hzero
  have habs := abs128_toNat v
  rw [← magnitude_eq_abs128, hzero] at habs
  exact h (BitVec.eq_of_toInt_eq (Int.natAbs_eq_zero.mp habs.symm))

/-- Settles O33: the magnitude is the circuit of ABS, and no signed value is below MIN_VALUE. -/
theorem magnitudeIsAbsoluteValue : Obligations.MagnitudeIsAbsoluteValue := by
  intro v
  have hlow := BitVec.le_toInt v
  have hhigh := BitVec.toInt_lt (x := v)
  rw [magnitude_eq_abs128, abs128_toNat]
  exact ⟨rfl, by omega⟩

/-! ### The signed division -/

theorem divu_eq {ua ub : Int128} (hub : ub ≠ 0) : divu ua ub = (ua / ub, ua % ub) :=
  Prod.ext (BitVec.eq_of_toNat_eq ((divu_toNat hub).1.trans BitVec.toNat_udiv.symm))
    (BitVec.eq_of_toNat_eq ((divu_toNat hub).2.trans BitVec.toNat_umod.symm))

/-- A remainder of 0 is its own negation, so its sign may as well be restored. -/
theorem restoreRemainder_eq (a ur : Int128) : restoreRemainder a ur = if a.msb then -ur else ur := by
  rw [restoreRemainder, isNeg_eq_msb, neg128_eq_neg]
  by_cases h : ur = 0
  · simp [h]
  · rw [bne_iff_ne.mpr h, Bool.and_true]

theorem restoreQuotient_eq (a b uq : Int128) : restoreQuotient a b uq = if xor a.msb b.msb then -uq else uq := by
  rw [restoreQuotient, isNeg_eq_msb, isNeg_eq_msb, neg128_eq_neg]

/-- The divider is the truncating division of vectors, in each of the four cases of the signs. -/
theorem divRem_eq {a b : Int128} (hb : b ≠ 0) : divRem a b = (a.sdiv b, a.srem b) := by
  rw [divRem, divu_eq (magnitude_ne_zero hb), restoreQuotient_eq, restoreRemainder_eq, BitVec.sdiv_eq, BitVec.srem_eq]
  cases ha : a.msb <;> cases hb : b.msb
  · rw [magnitude_eq_self_of_msb ha, magnitude_eq_self_of_msb hb]
    rfl
  · rw [magnitude_eq_self_of_msb ha, magnitude_eq_neg_of_msb hb]
    rfl
  · rw [magnitude_eq_neg_of_msb ha, magnitude_eq_self_of_msb hb]
    rfl
  · rw [magnitude_eq_neg_of_msb ha, magnitude_eq_neg_of_msb hb]
    rfl

/-- DIVREM on a nonzero divisor writes the truncated quotient and its remainder, and changes nothing else. -/
theorem exec_divrem_writes {s : State} {a b q r : Int128} (ha : opA s = a) (hb : opB s = b)
    (h : b ≠ 0 ∧ a.sdiv b = q ∧ a.srem b = r) : ∃ t, exec .divrem s = .next t ∧ WroteQR q r s t := by
  subst ha hb
  obtain ⟨hne, rfl, rfl⟩ := h
  refine ⟨_, exec_divrem_of_ne_zero hne, ?_⟩
  rw [divRem_eq hne]
  exact completeQR_wroteQR ..

/-! ### The contract -/

section Contract
variable (a b : Int128)

/-- The division identity of R120, modulo `2^128`. -/
theorem sdiv_mul_add_srem : a.sdiv b * b + a.srem b = a := by
  have hq : a.sdiv b = BitVec.ofInt 128 (a.toInt.tdiv b.toInt) :=
    BitVec.eq_of_toInt_eq ((BitVec.toInt_sdiv a b).trans (BitVec.toInt_ofInt ..).symm)
  have hr : a.srem b = BitVec.ofInt 128 (a.toInt.tmod b.toInt) := by
    rw [← BitVec.toInt_srem, BitVec.ofInt_toInt]
  calc a.sdiv b * b + a.srem b
      = BitVec.ofInt 128 (a.toInt.tdiv b.toInt * b.toInt + a.toInt.tmod b.toInt) := by
        rw [BitVec.ofInt_add, BitVec.ofInt_mul, BitVec.ofInt_toInt, hq, hr]
    _ = a := by rw [Int.tdiv_mul_add_tmod, BitVec.ofInt_toInt]

variable {a b}

/-- Only MIN_VALUE by -1 has a quotient out of range. -/
theorem toInt_sdiv_of_not_wraps (h : ¬ (a.toInt = -2 ^ 127 ∧ b.toInt = -1)) :
    (a.sdiv b).toInt = a.toInt.tdiv b.toInt := by
  refine BitVec.toInt_sdiv_of_ne_or_ne a b (not_and_or.mp fun hwraps => h ?_)
  rw [hwraps.1, hwraps.2]
  exact ⟨rfl, rfl⟩

theorem sdiv_srem_of_wraps (ha : a.toInt = -2 ^ 127) (hb : b.toInt = -1) : a.sdiv b = minValue ∧ a.srem b = 0 := by
  have hmin : a = minValue := BitVec.eq_of_toInt_eq ha
  have hneg : b = -1 := BitVec.eq_of_toInt_eq hb
  rw [hmin, hneg]
  decide

theorem natAbs_srem_lt (hb : b.toInt ≠ 0) : (a.srem b).toInt.natAbs < b.toInt.natAbs := by
  rw [BitVec.toInt_srem, Int.natAbs_tmod]
  exact Nat.mod_lt _ (Int.natAbs_pos.mpr hb)

theorem srem_sign : a.srem b = 0 ∨ ((a.srem b).toInt < 0 ↔ a.toInt < 0) := by
  have hsign := Int.sign_tmod a.toInt b.toInt
  rw [← BitVec.toInt_srem] at hsign
  split at hsign
  · exact .inl (BitVec.eq_of_toInt_eq (Int.sign_eq_zero_iff_zero.mp hsign))
  · rw [← Int.sign_eq_neg_one_iff_neg, hsign, Int.sign_eq_neg_one_iff_neg]
    exact .inr Iff.rfl

end Contract

/-- Settles O39: DIVREM is truncating integer division, wrapped for MIN_VALUE by -1. -/
theorem divremTruncatesTowardZero : Obligations.DivremTruncatesTowardZero := by
  refine ⟨decode_encode .divrem, fun s hs => ?_⟩
  rw [← opB_toInt] at hs
  rw [← opA_toInt, ← opB_toInt]
  have hne : opB s ≠ 0 := fun h => hs (by rw [h]; rfl)
  obtain ⟨t, hexec, hwrote⟩ := exec_divrem_writes (s := s) rfl rfl ⟨hne, rfl, rfl⟩
  refine ⟨t, _, _, hexec, hwrote, fun hfits => ⟨toInt_sdiv_of_not_wraps hfits, ?_⟩,
    fun hwraps => sdiv_srem_of_wraps hwraps.1 hwraps.2, (sdiv_mul_add_srem _ _).symm, natAbs_srem_lt hs, srem_sign⟩
  rw [toInt_sdiv_of_not_wraps hfits, BitVec.toInt_srem, Int.tmod_def, Int.mul_comm]

/-- A value other than MIN_VALUE is below it in magnitude, so all of it is remainder. -/
theorem sdiv_srem_minValue {a : Int128} (ha : a ≠ minValue) : a.sdiv minValue = 0 ∧ a.srem minValue = a := by
  have hq : a.sdiv minValue = 0 := BitVec.sdiv_intMin.trans (if_neg ha)
  exact ⟨hq, by simpa [hq] using sdiv_mul_add_srem a minValue⟩

/-- Settles O40: four cases are on fixed operands, and in the other the quotient is 0. -/
theorem divremOnMinValue : Obligations.DivremOnMinValue := fun _ =>
  ⟨fun ha hb => exec_divrem_writes ha hb (by decide),
    fun ha hb => exec_divrem_writes rfl hb ⟨by decide, sdiv_srem_minValue ha⟩,
    fun ha hb => exec_divrem_writes ha hb (by decide),
    fun ha hb => exec_divrem_writes ha hb (by decide),
    fun ha hb => exec_divrem_writes ha hb (by decide)⟩

end Sys2Proof.Machine
end

section
/-! Exceptions: what a write to CMD leaves in STATUS (60_exceptions.md R151, R158), and the order in which the conditions of one
action are tested (R154). -/

namespace Sys2Proof.Machine

/-! ### DZ and STATUS -/

/-- Settles O41: B is zero when both of its limbs are, and then the command only raises DZ. -/
theorem divremByZeroRaisesDzOnly : Obligations.DivremByZeroRaisesDzOnly :=
  fun s hHi hLo => exec_divrem_of_eq_zero ((opB_eq_zero_iff s).mpr ⟨hHi, hLo⟩)

theorem encode_eq_divrem_iff {i : Instr} : encode i = 0x20 ↔ i = .divrem :=
  ⟨eq_divrem_of_encode_eq, fun h => h ▸ rfl⟩

/-- A step on a write of an illegal word to CMD raises ILL. -/
theorem step_cmd_of_not_legalWord {w : Word} {rest : List HostAction} {s : State} (h : ¬ LegalWord w)
    (hp : s.pending = .write 0x40 8 w :: rest) : step s = .next (raise .ill { s with pending := rest }) :=
  (step_of_pending hp).trans (transact_cmd_of_not_legalWord h _)

/-- A step on a write of a legal word to CMD runs its command. -/
theorem step_cmd_encode {i : Instr} {rest : List HostAction} {s : State} (hp : s.pending = .write 0x40 8 (encode i) :: rest) :
    step s = exec i { s with pending := rest } :=
  (step_of_pending hp).trans (transact_cmd_of_decode (decode_encode i) _)

/-- Settles O8: an illegal word raises ILL, and a legal one leaves the STATUS of its command. -/
theorem statusDescribesLastCommand : Obligations.StatusDescribesLastCommand := by
  intro s w rest hp
  by_cases hlegal : LegalWord w
  · obtain ⟨i, hi⟩ := exists_decode_iff_legalWord.mpr hlegal
    obtain rfl := eq_encode_of_decode hi
    obtain ⟨t, ht⟩ := exec_next i { s with pending := rest }
    have hstatus := exec_status ht
    rw [encode_eq_divrem_iff, ← opB_eq_zero_iff]
    exact ⟨t, (step_cmd_encode hp).trans ht, fun hill => absurd hlegal hill, fun hdz => hstatus.trans (if_pos hdz),
      fun hok => hstatus.trans (if_neg hok.2)⟩
  · refine ⟨_, step_cmd_of_not_legalWord hlegal hp, fun _ => rfl, fun hdz => ?_, fun hok => absurd hok.1 hlegal⟩
    obtain ⟨rfl, -⟩ := hdz
    exact absurd (legalWord_encode .divrem) hlegal

/-! ### The order of the conditions -/

/-- An action that reads a slot is one that the access table admits. -/
theorem wf_of_mem_slotsRead {d : DataSlot} {a : HostAction} (h : d ∈ slotsRead a) : a.wf = true := by
  obtain rfl | ⟨i, rfl, -⟩ := mem_slotsRead_iff.mp h
  · cases d <;> rfl
  · rfl

/-- A write to CMD that reads a slot is one of a legal word. -/
theorem legalWord_of_mem_slotsRead {d : DataSlot} {off : BitVec 7} {width : Nat} {w : Word}
    (h : d ∈ slotsRead (.write off width w)) : LegalWord w := by
  obtain hread | ⟨i, hwrite, -⟩ := mem_slotsRead_iff.mp h
  · cases hread
  · cases hwrite
    exact legalWord_encode i

/-- A strict step on an action that reads written slots only is the step. -/
theorem strictStep_eq_step {a : HostAction} {rest : List HostAction} {s : State} (hp : s.pending = a :: rest)
    (hread : ∀ d ∈ slotsRead a, isWritten d s = true) : strictStep s = step s := by
  obtain ⟨hr, -⟩ | ⟨-, hs⟩ := strictStep_cases s
  · obtain ⟨b, rest', hp', d, hd, hclear⟩ := readsUnwritten_iff.mp hr
    cases hp.symm.trans hp'
    cases (hread d hd).symm.trans hclear
  · exact hs

/-- Settles O51: what is not admitted and what is illegal read no slot, so they come before UNWRITTEN; a strict step whose read
set is written is the step, so DZ comes after it. -/
theorem conditionsTakePriorityInOrder : Obligations.ConditionsTakePriorityInOrder := by
  intro s rest
  refine ⟨fun a hp hwf => ?_, fun w hp hill => ?_, fun i hp hclear => ?_, fun hp hwritten hB => ?_⟩
  · have hstrict := strictStep_eq_step hp fun d hd => by cases hwf.symm.trans (wf_of_mem_slotsRead hd)
    exact hstrict.trans ((accessErrorExactlyWhereNotAllowed s a rest hp).1 hwf)
  · have hstrict := strictStep_eq_step hp fun d hd => absurd (legalWord_of_mem_slotsRead hd) hill
    exact hstrict.trans (step_cmd_of_not_legalWord hill hp)
  · exact (strictStepFaultsExactlyOnUnwritten s).1.mpr (.inr ⟨i, rest, hp, hclear⟩)
  · calc strictStep s
      _ = step s := strictStep_eq_step hp hwritten
      _ = exec .divrem { s with pending := rest } := step_cmd_encode hp
      _ = .next (raise .dz { s with pending := rest }) := exec_divrem_of_eq_zero hB

end Sys2Proof.Machine
end

section
/-! Reset and runs: what a reset leaves (70_reset_and_hazards.md R170), and how a run ends, in which state and with which
result (R177). -/

namespace Sys2Proof.Machine

/-! ### Reset -/

/-- Settles O12, by the laws of `applyReset`. -/
theorem resetClearsStatusAndMarks : Obligations.ResetClearsStatusAndMarks := fun s _ hp =>
  ⟨applyReset { s with pending := _ }, step_of_pending hp, applyReset_status _, isWritten_applyReset _,
    applyReset_pending _, applyReset_returned _⟩

/-! ### Results of runs from states in agreement -/

/-- The states in which two runs end agree on the written slots, if the states from which they start do. -/
theorem strictReach_agree (k : Nat) : ∀ {s t : State}, AgreeOnWritten s t →
    AgreeOnWritten (strictReach k s) (strictReach k t) := by
  induction k with
  | zero => exact id
  | succ k ih =>
    intro s t h
    obtain ⟨s', t', hs, ht, h'⟩ | ⟨f, hs, ht⟩ | ⟨r, hs, ht⟩ := outcomesAgree_cases (strictStep_agree h)
    · rw [strictReach_succ_of_next k hs, strictReach_succ_of_next k ht]
      exact ih h'
    · rw [strictReach_succ_of_fault k hs, strictReach_succ_of_fault k ht]
      exact h
    · simpa only [strictReach, hs, ht] using h

/-- Outcomes that agree are of one kind of end: states in agreement have one STATUS. -/
theorem runEnd_eq_of_agree {x y : Host.Outcome State Fault Refusal} (h : OutcomesAgree x y) : runEnd x = runEnd y := by
  obtain ⟨s, t, rfl, rfl, hstatus, -⟩ | ⟨f, rfl, rfl⟩ | ⟨r, rfl, rfl⟩ := outcomesAgree_cases h
  · simp only [runEnd, hstatus]
  · rfl
  · rfl

theorem runResult_eq_of_agree {s t : State} (h : AgreeOnWritten s t) : runResult s = runResult t := by
  obtain ⟨-, -, hpending, -, -⟩ := id h
  have hkind : runEnd (runAll s) = runEnd (runAll t) := by
    rw [runAll, runAll, hpending]
    exact runEnd_eq_of_agree (unwrittenSlotsCannotBeObserved _ s t h)
  have hresult : observable (runState s) = observable (runState t) := by
    rw [runState, runState, hpending]
    exact observable_eq_of_agree (strictReach_agree _ h)
  rw [runResult, runResult, hkind, hresult]

/-- Settles O59: agreement on the written slots decides the kind and the result of a run. -/
theorem runResultIgnoresUnspecifiedSlots : Obligations.RunResultIgnoresUnspecifiedSlots :=
  fun _ _ h => (runResult_eq_of_agree h).symm

/-! ### The state in which a run ends -/

/-- A strict run that faults did so in its first step or after it. -/
theorem strictStep_of_strictRun_fault {k : Nat} {s : State} {f : Fault} (h : strictRun (k + 1) s = .fault f) :
    strictStep s = .fault f ∨ ∃ u, strictStep s = .next u ∧ strictRun k u = .fault f := by
  simp only [strictRun] at h
  split at h
  · next u hu => exact .inr ⟨u, hu, h⟩
  · next g hg =>
    cases h
    exact .inl hg
  · cases h

/-- A strict run that answers a state ends in it. -/
theorem strictReach_of_strictRun_next (k : Nat) : ∀ {s t : State}, strictRun k s = .next t → strictReach k s = t := by
  induction k with
  | zero =>
    intro s t h
    cases h
    rfl
  | succ k ih =>
    intro s t h
    obtain ⟨u, hu, hrun⟩ := strictStep_next_of_strictRun h
    exact (strictReach_succ_of_next k hu).trans (ih hrun)

/-- A strict run that faults ends in the state that its steps before the fault answered. -/
theorem strictReach_of_strictRun_fault (k : Nat) : ∀ {s : State} {f : Fault}, strictRun k s = .fault f →
    ∃ j, j < k ∧ strictRun j s = .next (strictReach k s) ∧ strictStep (strictReach k s) = .fault f := by
  induction k with
  | zero =>
    intro s f h
    cases h
  | succ k ih =>
    intro s f h
    obtain hf | ⟨u, hu, hrun⟩ := strictStep_of_strictRun_fault h
    · rw [strictReach_succ_of_fault k hf]
      exact ⟨0, k.succ_pos, rfl, hf⟩
    · obtain ⟨j, hj, hbefore, hf⟩ := ih hrun
      rw [strictReach_succ_of_next k hu]
      exact ⟨j + 1, Nat.succ_lt_succ hj, (strictRun_succ_of_next j hu).trans hbefore, hf⟩

/-- Settles O57, by induction on the length of the run for each of its two ends. -/
theorem runStateIsWhereTheRunEnds : Obligations.RunStateIsWhereTheRunEnds :=
  fun k _ => ⟨fun _ => strictReach_of_strictRun_next k, fun _ => strictReach_of_strictRun_fault k⟩

/-! ### What a strict run takes off the queue, and where it faults -/

/-- A strict step that answers a state has taken the oldest pending action off the queue, if there was one. -/
theorem strictStep_pending {s t : State} (h : strictStep s = .next t) : t.pending = s.pending.tail := by
  have hs := step_of_strictStep_next h
  cases hp : s.pending with
  | nil =>
    cases (step_of_idle hp).symm.trans hs
    exact hp
  | cons a rest =>
    rw [step_of_pending hp] at hs
    exact transact_pending hs

/-- A strict run that answers a state has taken one action off the queue in each step. -/
theorem strictRun_pending (k : Nat) : ∀ {s t : State}, strictRun k s = .next t → t.pending = s.pending.drop k := by
  induction k with
  | zero =>
    intro s t h
    cases h
    rfl
  | succ k ih =>
    intro s t h
    obtain ⟨u, hu, hrun⟩ := strictStep_next_of_strictRun h
    rw [ih hrun, strictStep_pending hu, List.drop_tail]

/-- A strict step answers a state, or the access table does not admit the oldest action, or it admits the action and the action
reads a slot whose mark is clear (20_memory.md R47, 10_state.md R36). -/
theorem strictStep_outcomes (s : State) :
    (∃ t, strictStep s = .next t) ∨
    ∃ a rest, s.pending = a :: rest ∧
      (a.wf = false ∧ strictStep s = .fault .accessError ∨
        a.wf = true ∧ strictStep s = .fault .unwritten ∧ ∃ d ∈ slotsRead a, isWritten d s = false) := by
  obtain ⟨hr, hs⟩ | ⟨-, hs⟩ := strictStep_cases s
  · obtain ⟨a, rest, hp, d, hd, hclear⟩ := readsUnwritten_iff.mp hr
    exact .inr ⟨a, rest, hp, .inr ⟨wf_of_mem_slotsRead hd, hs, d, hd, hclear⟩⟩
  · rw [hs]
    cases hp : s.pending with
    | nil => exact .inl ⟨s, step_of_idle hp⟩
    | cons a rest =>
      obtain ⟨hfault, hnext⟩ := accessErrorExactlyWhereNotAllowed s a rest hp
      cases hwf : a.wf with
      | false => exact .inr ⟨a, rest, rfl, .inl ⟨hwf, hfault hwf⟩⟩
      | true => exact .inl (hnext hwf)

/-- No run of this model is refused. -/
theorem strictRun_ne_refused (k : Nat) : ∀ (s : State) (r : Refusal), strictRun k s ≠ .refused r := by
  induction k with
  | zero =>
    intro s r h
    cases h
  | succ k ih =>
    intro s r
    obtain ⟨t, ht⟩ | ⟨a, rest, -, ⟨-, hf⟩ | ⟨-, hf, -⟩⟩ := strictStep_outcomes s
    · rw [strictRun_succ_of_next k ht]
      exact ih t r
    all_goals
      rw [strictRun_succ_of_fault k hf]
      exact nofun

/-! ### The kinds of end -/

/-- What every step keeps, a strict run keeps. -/
theorem strictRun_keeps {P : State → Prop} (hstep : ∀ s t, P s → step s = .next t → P t) (k : Nat) :
    ∀ {s t : State}, P s → strictRun k s = .next t → P t := by
  induction k with
  | zero =>
    intro s t hs h
    cases h
    exact hs
  | succ k ih =>
    intro s t hs h
    obtain ⟨u, hu, hrun⟩ := strictStep_next_of_strictRun h
    exact ih (hstep s u hs (step_of_strictStep_next hu)) hrun

/-- The legal values of STATUS are those that a command leaves (60_exceptions.md R155, R158). -/
theorem statusLegal_iff {w : Word} : StatusLegal w ↔ ∃ e, w = statusWord e := by
  constructor
  · rintro ⟨hreserved, hboth⟩
    have hlt : w.toNat < 4 := by
      have h : (statusReserved w).toNat = 0 := congrArg BitVec.toNat hreserved
      have hw := w.isLt
      simp only [statusReserved, BitVec.extractLsb'_toNat, Nat.shiftRight_eq_div_pow] at h
      omega
    obtain ⟨n, hn, rfl⟩ : ∃ n < 4, w = BitVec.ofNat 64 n := ⟨w.toNat, hlt, by simp⟩
    obtain rfl | rfl | rfl | rfl : n = 0 ∨ n = 1 ∨ n = 2 ∨ n = 3 := by omega
    · exact ⟨none, rfl⟩
    · exact ⟨some .dz, rfl⟩
    · exact ⟨some .ill, rfl⟩
    · cases hboth
  · rintro ⟨e, rfl⟩
    exact statusLegal_statusWord e

/-- A run that completes with a legal STATUS ends normally, or with DZ or ILL recorded, as STATUS tells. -/
theorem runEnd_next_cases {t : State} (h : StatusLegal t.status) :
    (runEnd (.next t) = .normal ∧ t.status = 0) ∨
    (runEnd (.next t) = .exceptionRecorded true false ∧ t.status = 1) ∨
    (runEnd (.next t) = .exceptionRecorded false true ∧ t.status = 2) := by
  obtain ⟨e, he⟩ := statusLegal_iff.mp h
  rw [runEnd, he]
  obtain _ | _ | _ := e
  · exact .inl ⟨rfl, rfl⟩
  · exact .inr (.inl ⟨rfl, rfl⟩)
  · exact .inr (.inr ⟨rfl, rfl⟩)

/-- A run from reset that faults has stopped before one of its actions, and the fault tells what that action is. -/
theorem run_fault_cases {actions : List HostAction} {f : Fault} (h : runAll (State.start actions) = .fault f) :
    ∃ before a rest, actions = before ++ a :: rest ∧ (runState (State.start actions)).pending = a :: rest ∧
      (f = .accessError ∧ a.wf = false ∨
        f = .unwritten ∧ a.wf = true ∧ ∃ d ∈ slotsRead a, isWritten d (runState (State.start actions)) = false) := by
  obtain ⟨j, -, hbefore, hfault⟩ := (runStateIsWhereTheRunEnds _ _).2 f h
  obtain ⟨t, ht⟩ | ⟨a, rest, hp, hcause⟩ := strictStep_outcomes (runState (State.start actions))
  · cases ht.symm.trans hfault
  · have hdrop : actions.drop j = a :: rest := (strictRun_pending j hbefore).symm.trans hp
    have hsplit : actions = actions.take j ++ a :: rest := by rw [← hdrop, List.take_append_drop]
    refine ⟨_, a, rest, hsplit, hp, ?_⟩
    obtain ⟨hwf, hf⟩ | ⟨hwf, hf, hread⟩ := hcause
    · cases hfault.symm.trans hf
      exact .inl ⟨rfl, hwf⟩
    · cases hfault.symm.trans hf
      exact .inr ⟨rfl, hwf, hread⟩

/-- A run from reset that answers a state ends in it with no action left and a legal STATUS. -/
theorem run_next {actions : List HostAction} {t : State} (h : runAll (State.start actions) = .next t) :
    runState (State.start actions) = t ∧ t.pending = [] ∧ StatusLegal t.status := by
  have hempty : t.pending = [] := (strictRun_pending _ h).trans List.drop_length
  have hinv : Inv t := strictRun_keeps stepKeepsInvariant _ (s := State.start actions) invariantHoldsAtReset h
  obtain ⟨hlegal, -⟩ := hinv
  exact ⟨strictReach_of_strictRun_next _ h, hempty, hlegal⟩

/-- Settles O58, by cases on the outcome of the run: a state with a legal STATUS, or one of the two faults. -/
theorem runEndsInOneOfFourKinds : Obligations.RunEndsInOneOfFourKinds := by
  intro actions
  simp only [run, runResult]
  cases h : runAll (State.start actions) with
  | next t =>
    obtain ⟨hend, hempty, hlegal⟩ := run_next h
    rw [hend]
    obtain ⟨hkind, hstatus⟩ | ⟨hkind, hstatus⟩ | ⟨hkind, hstatus⟩ := runEnd_next_cases hlegal
    · exact .inl ⟨hkind, hstatus, hempty⟩
    · exact .inr (.inl ⟨hkind, hstatus, hempty⟩)
    · exact .inr (.inr (.inl ⟨hkind, hstatus, hempty⟩))
  | fault f =>
    obtain ⟨before, a, rest, hsplit, hp, ⟨rfl, hwf⟩ | ⟨rfl, hwf, hread⟩⟩ := run_fault_cases h
    · exact .inr (.inr (.inr (.inl ⟨rfl, before, a, rest, hsplit, hwf, hp⟩)))
    · exact .inr (.inr (.inr (.inr ⟨rfl, before, a, rest, hsplit, hwf, hp, hread⟩)))
  | refused r => exact absurd h (strictRun_ne_refused _ _ r)

end Sys2Proof.Machine
end
